-- ==== Sys2Proof/Word.lean ====
section
/-!
DEFINITION. The words the ZX-4824 is built of: bytes, and the 32- and 64-bit words of registers, ring entries and
records (R6, R7).
-/
namespace Sys2Proof

/-- One byte of memory or of a message. -/
abbrev Byte := BitVec 8

/-- A 32-bit word: a ZA32 value, a key, an index, a packet field. -/
abbrev W32 := BitVec 32

/-- A 64-bit word: a register, an operand word, a word of a record. -/
abbrev W64 := BitVec 64

end Sys2Proof
end

