-- ==== Sys2Proof/Syntax.lean ====
section
/-!
DEFINITION. The commands of the block: one constructor of `Instr` per row of spec/opcode_table.json, with the operands
the row's rule needs. The operand types come first.
-/
namespace Sys2Proof

/-- The storages that patrol scrub covers (Table DI-6). -/
inductive ScrubStore where
  /-- Stack `s`. -/
  | stack (s : Nat)
  /-- The store of a logical tile. -/
  | tile (t : Nat)
  /-- Valid-map word `w` of the module (R253). -/
  | validMap (w : Nat)
  /-- A command-queue entry, descriptor copy or translation snapshot of the command with this number. -/
  | queue (id : Nat)
  /-- A Cocoon entry of the command with this number. -/
  | cocoon (id : Nat)
  /-- Routing context state or Draught bias store of a context. -/
  | context (c : Nat)
  /-- Grate FIFO, update sequencer state or journal control of a domain. -/
  | update (d : Nat)
  /-- Scheduler, Damper, credit and ledger state, stoke logic, protection and set-up registers. -/
  | module
  /-- The leaves that the reduction store holds for the collective with this number (R353). -/
  | leaves (id : Nat)
  /-- The receive buffer of a port (R326). -/
  | port (p : Nat)
  /-- Chimney's SRAM (Table MG-1). -/
  | chimney
deriving DecidableEq, Repr

/-- A unit of the fabric die whose datapath carries residues (R366). -/
inductive FdUnit where
  | scheduler | damper | netif | updater
deriving DecidableEq, Repr

/-- An error that struck stored data since the last command (R238, R246): physical, so it comes with a command. -/
inductive Upset where
  /-- XOR `val` into the symbol of die `die` of the codeword that holds the stack byte `dpa` (R236). -/
  | stackSym (dpa die : Nat) (val : Byte)
  /-- XOR `val` into the stored symbol of die `die` in all sixteen codewords of the block that holds `dpa`. -/
  | stackBlk (dpa die : Nat) (val : Byte)
  /-- XOR a pattern into the 80 stored bits of the 64-bit word at byte offset `off` of a logical tile's store (R244). -/
  | tileWord (tile off : Nat) (pat : BitVec 80)
  /-- XOR a pattern into word `word` of other SRAM: a valid-map word, a queue entry, control state (Table DI-1). -/
  | sramWord (store : ScrubStore) (word : Nat) (pat : BitVec 80)
  /-- A residue mismatch in the next operation of a unit, once more for each of these (R366). -/
  | datapath (unit : FdUnit)
  /-- The next crossing, outside an execution, of the block that holds the stack byte `dpa` brings this error pattern (R239): one attempt. -/
  | crossing (dpa : Nat) (pat : List Byte)
deriving DecidableEq, Repr

/-- An arithmetic error of one execution (R365): the element it strikes, and what is XORed into the value there.
`stage` 0: before the fold, seen by the column check; 1: at the drain, seen by the row check; 2: an element moved or
converted; 3: an index or counter, seen by its residue (R157, R366); 4: a leaf of an SMUL's output lost on its way to the
merge stage, seen by the leaf count (R157); 5: a scale or header byte that moves (R367); 6: two pipes of
a pair disagree on work of a RUN in stack `row` (R303); 7: a counter or token amount of the frame scheduler or the Damper that serves
the command, seen by its residue (R366); 16 + j: as 0, in the j-th segment after the first of an SMUL's output (R157). -/
structure CFault where
  stage : Nat
  row : Nat
  col : Nat
  pat : W32
deriving DecidableEq, Repr

/-- What surrounds an execution and is not the module's own: upsets, host memory as the completions return it, arithmetic
errors, when moving rows arrive, when drain ports are taken, interface CRC mismatches. -/
structure Env where
  /-- Errors that struck stored data before this execution. -/
  upsets : List Upset := []
  /-- Host memory as read completions return it (address, byte); a byte not listed returns 0. -/
  host : List (Nat × Byte) := []
  /-- Host byte ranges (first, length) whose completions carry the EP bit (Table DI-4). -/
  ep : List (Nat × Nat) := []
  /-- Arithmetic errors of the execution. -/
  faults : List CFault := []
  /-- Arithmetic errors of the odd tile's execution in twin mode (R373). -/
  twinFaults : List CFault := []
  /-- For row m: the cycle from admission in which its last element has arrived (R108); rows not listed are complete. -/
  arrive : List Nat := []
  /-- Drain ports taken by other requesters: (column group, cycle from admission) (R110). -/
  held : List (Nat × Nat) := []
  /-- Crossings of stack blocks between base die and compute die that bring errors (R239): an address in the block and the pattern XORed
  into its bytes, one entry an attempt, a block's attempts in order; an attempt that no entry is left for arrives as sent. -/
  crc : List (Nat × List Byte) := []
  /-- Cycles by which the first slot of an HMUL is held behind the HMUL before it on the array (R107). -/
  extra : Nat := 0
deriving DecidableEq, Repr

/-- Who writes a register: the host through PCIe, or Chimney through its sideband port (R433). -/
inductive Requester where
  | host
  | chimney
deriving DecidableEq, Repr

/-- How a read of host memory ends (R400, Table HR-1): with its data, with an error status, by the completion timeout, poisoned, or with an
ECRC that does not match. -/
inductive ReadEnd where
  | good | failed | timedOut | poisoned | badEcrc
deriving DecidableEq, Repr

/-- A binding of Chimney's MCTP endpoint (R437, R494): an I3C port of the mezzanine connector, or PCIe VDM. -/
inductive Binding where
  | i3c (port : Fin 2)
  | pcie
deriving DecidableEq, Repr

/-- An MCTP endpoint that Chimney speaks with: its binding and its endpoint ID there; 0 names the binding's bus owner. -/
structure Peer where
  bind : Binding
  eid : Nat
deriving DecidableEq, Repr

/-- A number for a binding, and for an endpoint. -/
def Binding.no : Binding → Nat
  | .i3c p => p
  | .pcie => 2
def Peer.no (p : Peer) : Nat := 3 * p.eid + p.bind.no

/-- What authenticates a secured message (R448, R450): its sequence number and its tag. -/
structure SecTag where
  seq : Nat
  tag : List Byte
deriving DecidableEq, Repr

/-- How a secured message comes (R437): its session, and what authenticates it. -/
structure Secure where
  sess : Nat
  auth : SecTag
deriving DecidableEq, Repr

/-- A CHALLENGE (R448, R450): its nonce, and whether the checks on it pass. -/
structure Challenge where
  nonce : List Byte
  good : Bool
deriving DecidableEq, Repr

/-- An error of flash in the health table (R443): the entry's place in the table, its copy, the pattern over its bytes and CRC. -/
structure BadEntry where
  entry : Nat
  copy : Nat
  pat : Nat
deriving DecidableEq, Repr

/-- The result of the held phase of start-up that the silicon, not the rules, decides (Table SU-3). -/
structure PowerUp where
  /-- Attempts to start the rails or lock the clocks that fail: 0, 1, or 2 for both (steps 3 and 4). -/
  railFails : Nat := 0
  /-- What decoders put out in the self-test: decoder, pattern number, outputs (R257, R258; log entry 97). -/
  selfTest : List (Nat × Nat × Nat) := []
  /-- Physical tiles that fail the start-up tile test: die, physical tile, failing program step (step 9). -/
  tileFails : List (Nat × Nat × Nat) := []
  /-- Stacks that do not train in three attempts (step 10). -/
  stackFails : List Nat := []
  /-- Errors that have come into the health table in flash until step 8 (R443). -/
  badEntries : List BadEntry := []
deriving DecidableEq, Repr

/-- The commands: one constructor per row of the table, in the table's order. `q` is a queue (0-95 tile queue 48 x die +
tile, 96-159 ring queue 96 + r), `id` the number an entry took at dispatch, `e` what surrounds an execution. A ring entry comes with the EP mark of its completion. -/
inductive Instr where
  -- commands of the opcode list (Table HR-5), when they take effect or execute
  | nop (q : Nat)
  | wait (q : Nat)
  | signal (q : Nat)
  | phase (q : Nat)
  | frameMark (q : Nat)
  | transfer (id : Nat) (e : Env)
  | convert (id : Nat) (e : Env)
  | vclear (id : Nat) (e : Env)
  | hmul (id : Nat) (e : Env)
  | smul (id : Nat) (e : Env)
  | gather (id : Nat) (e : Env)
  | scatter (id : Nat) (e : Env)
  | merge (id : Nat) (e : Env)
  | compact (id : Nat) (e : Env)
  | func (id : Nat) (e : Env)
  | route (id : Nat) (e : Env)
  | combine (id : Nat) (e : Env)
  | stepOpen (q : Nat)
  | stepSeal (q : Nat)
  | updateSchedule (q : Nat)
  | updateRun (id : Nat) (e : Env)
  | reduceScatter (id : Nat) (e : Env)
  | allGather (id : Nat) (e : Env)
  | allReduce (id : Nat) (e : Env)
  | broadcast (id : Nat) (e : Env)
  -- the path of a command through the module
  | ringDispatch (r : Nat)
  | descriptorLoad (q : Nat) (e : Env)
  | instructionAdmit (q : Nat)
  | commandComplete (id : Nat)
  | replay (id : Nat) (e : Env)
  | spareSwapDone (die tile : Nat)
  -- the frame
  | stoke (testsFailed : List (Nat × Nat × Nat))
  | guardInterval
  | reserveRelease
  | overrunLimit (id : Nat)
  | powerMonitorSample (watts : Nat)
  | sensorSample (temps : List (Nat × Int))
  | decodeDeadline (q : Nat)
  | arrivalWatchdog (id : Nat)
  | waitTimeout (q : Nat)
  | reductionDeadline (id : Nat)
  | collectiveBurst (id : Nat) (port : Nat) (e : Env)
  -- the update path
  | updateBlockTake (d : Nat) (e : Env)
  | updateBatchIssue
  | microCommand (st : Nat) (pairFails crcFails : Nat) (e : Env)
  | rollbackComplete (d : Nat) (e : Env)
  -- pins, interrupts, scrub, tests
  | smokePulseEnd
  | emberToggle
  | emberKickTimeout
  | irqGapExpiry (v : Nat)
  | msixUnmask (v : Nat)
  | patrolScrub (w : ScrubStore) (uncorrectable : Bool) (e : Env)
  | scrubLate (w : ScrubStore)
  | sramWriteBack (tile bank : Nat)
  | testDue (die phys : Nat)
  | testGraceExpiry (die tile : Nat)
  | tileStoreZeroed (die tile : Nat)
  | parameterMapLoaded (d : Nat) (e : Env)
  | answerBlockArrival (c : Nat)
  -- Chaug
  | flitReceive (p : Nat) (flit : List Byte) (fecCe fecUe : Nat)
  | leaf (p v : Nat)
  | gatherPacket (p v : Nat)
  | streamPacket (p v : Nat)
  | window (p v : Nat)
  | grant (p v : Nat)
  | poison (p v : Nat)
  | ready (p v : Nat)
  | stokeMarker (p : Nat)
  | echoRequest (p : Nat)
  | echoReply (p : Nat) (turnPs : Nat)
  | delayMeasurement
  | stokeMissing
  | rangeDetach
  | joiningStoke
  | portDown (p : Nat)
  | portUp (p : Nat) (reversed : Bool) (credits : List Nat)
  | portTrainRetry (p : Nat)
  -- the host interface
  | doorbellReadDone (res : ReadEnd) (block : List W64)
  | ringFetchDone (r : Nat) (entries : List (List W64 × Bool))
  | kickWrite (r off size : Nat) (v : W64)
  | tallyPageWrite (off size : Nat) (v : W64)
  | stackWindowWrite (off : Nat) (data : List Byte)
  | stackWindowRead (off size : Nat)
  -- registers with a row of their own
  | setupLock (w : Requester) (v : W64)
  | stokeSwitchFrame (w : Requester) (v : W64)
  | powerCap (w : Requester) (v : W64)
  | gateMode (w : Requester) (v : W64)
  | stepAbandon (w : Requester) (v : W64)
  | faultClear (w : Requester) (v : W64)
  | epochAdvance (w : Requester) (c : Nat) (v : W64)
  | dieFailForce (st : Nat) (v : W64)
  | emberKick
  | tileDomain (w : Requester) (die tile : Nat) (v : W64)
  | domainEnable (w : Requester) (d : Nat) (v : W64)
  | domainDisable (w : Requester) (d : Nat) (v : W64)
  | ptRoot (w : Requester) (d : Nat) (v : W64)
  | routeCtlEnable (w : Requester) (c : Nat) (v : W64)
  | cgroupEnable (w : Requester) (k : Nat) (v : W64) (e : Env)
  | cgroupDisable (w : Requester) (k : Nat) (v : W64)
  | streamEnable (w : Requester) (n : Nat) (v : W64)
  | ringEnable (w : Requester) (r : Nat) (v : W64)
  | ringDisable (w : Requester) (r : Nat) (v : W64)
  | cplRingEnable (w : Requester) (c : Nat) (v : W64)
  | tallyOwner (w : Requester) (b : Nat) (v : W64)
  | portCfg (w : Requester) (p : Nat) (v : W64)
  | rangeJoin (w : Requester) (v : W64)
  | masterEnable (w : Requester) (v : W64)
  | vcCfg (w : Requester) (c : Nat) (v : W64)
  | registerWrite (w : Requester) (off size : Nat) (v : W64)
  -- power and reset
  | inputPowerOn
  | packagePowerUp (o : PowerUp)
  | packageResetRelease (masterSel : Bool)
  | frameReferenceLock
  | pcieLinkUp
  | resetNAssert
  | perstNAssert
  | level2Reset
  | inputUndervoltage
  | railFault (zone : Nat)
  | powerRestored
  | auxPowerLoss
  | sensorSnapshot (readings : List (Nat × Int))
  | chimneyFatalCondition (code site : Nat)
  | firmwareHealthTimeout
  -- management messages; `ep` is the requester's endpoint, `sess` how a secured message comes
  | mctpControl (ep : Peer) (body : List Byte)
  | pldmBase (ep : Peer) (body : List Byte)
  | requestUpdate (ep : Peer)
  -- `image` is what reached flash, none where it could not be written (R445)
  | componentTransfer (ep : Peer) (comp : Nat) (image : Option (List Byte))
  | verifyComplete (ep : Peer)
  | activateFirmware (ep : Peer)
  | cancelUpdate (ep : Peer)
  | getVersion (ep : Peer)
  | getCapabilities (ep : Peer)
  | negotiateAlgorithms (ep : Peer) (offered : List Byte)
  | getDigests (ep : Peer)
  | getCertificate (ep : Peer) (slot off len : Nat)
  | challenge (ep : Peer) (c : Challenge)
  | getMeasurements (ep : Peer) (sess : Option Secure) (index : Nat) (sign : Bool) (nonce : List Byte)
  | keyExchange (ep : Peer) (body : List Byte) (authGood : Bool)
  | finish (ep : Peer) (sess : Nat) (verify : List Byte)
  | heartbeat (ep : Peer) (sess : Nat) (tag : SecTag)
  | keyUpdate (ep : Peer) (sess : Nat) (tag : SecTag)
  | endSession (ep : Peer) (sess : Nat) (tag : SecTag)
  | getSensors (ep : Peer) (first count : Nat)
  | getZonePower (ep : Peer) (ofStacks : Bool) (first count : Nat)
  | readLog (ep : Peer) (first count : Nat)
  | getHealth (ep : Peer)
  | readCap (ep : Peer) (off : Nat)
  | readReg (ep : Peer) (off : Nat)
  | forceStop (ep : Peer) (sess : Option Secure)
  | setJobKey (ep : Peer) (sess : Option Secure) (d : Nat) (key : List Byte)
  | getJobReport (ep : Peer) (sess : Option Secure) (d : Nat) (nonce : List Byte)
  | clearSnuffer (ep : Peer) (sess : Option Secure)
  | configurationRequest (isWrite : Bool) (off : Nat) (v : W32)
  | bar0Ready
  | mailboxRequest (w : Requester) (v : W64)
  | dynamicAddressAssignment (port addr : Nat)
  | markHealthy
  | getFirmwareParameters (ep : Peer)
deriving DecidableEq, Repr

end Sys2Proof
end

