-- ==== Sys2Proof/Machine/Tab.lean ====
section
/-!
DEFINITION. Sparse tables: everything the manual numbers (registers, bytes, tallies, domains, tiles, ports) is a list
of (number, value) pairs in one canonical form: numbers strictly rising, and no value equal to what an unlisted number
holds. `d` says what an unlisted number holds.
-/
namespace Sys2Proof.Machine

/-- A sparse table. `Tab (BitVec 8)` is a list of `Host.Cell`. -/
abbrev Tab (α : Type) := List (Nat × α)

/-- The value at `k`: the first entry for `k`, else what an unlisted number holds. -/
def Tab.get {α : Type} (d : Nat → α) : Tab α → Nat → α
  | [], k => d k
  | (a, v) :: t, k => if a = k then v else Tab.get d t k

/-- Store `v` at `k`, keeping the canonical form: storing what an unlisted number holds takes the entry out. -/
def Tab.set {α : Type} [DecidableEq α] (d : Nat → α) : Tab α → Nat → α → Tab α
  | [], k, v => if v = d k then [] else [(k, v)]
  | (a, w) :: t, k, v =>
    if k < a then
      if v = d k then ((a, w) :: t).filter (fun e => e.1 != k) else (k, v) :: (a, w) :: t
    else if k = a then
      if v = d k then t.filter (fun e => e.1 != k) else (k, v) :: t
    else (a, w) :: Tab.set d t k v

/-- Every number listed is above `b`. -/
def Tab.above {α : Type} (b : Nat) (t : Tab α) : Bool := t.all (fun e => decide (b < e.1))

/-- The canonical form. -/
def Tab.wf {α : Type} [DecidableEq α] (d : Nat → α) : Tab α → Bool
  | [] => true
  | (a, v) :: t => Tab.above a t && (decide (v ≠ d a) && Tab.wf d t)

/-- Store the values `vs` at `k`, `k + 1`, ... in turn. -/
def Tab.setList {α : Type} [DecidableEq α] (d : Nat → α) : Tab α → Nat → List α → Tab α
  | t, _, [] => t
  | t, k, v :: vs => Tab.setList d (Tab.set d t k v) (k + 1) vs

/-- The `n` values from `k` on. -/
def Tab.getList {α : Type} (d : Nat → α) (t : Tab α) : Nat → Nat → List α
  | _, 0 => []
  | k, n + 1 => Tab.get d t k :: Tab.getList d t (k + 1) n

/-- Drop every entry whose number lies in `[lo, lo + n)`. -/
def Tab.dropRange {α : Type} (t : Tab α) (lo n : Nat) : Tab α :=
  t.filter (fun e => !(decide (lo ≤ e.1) && decide (e.1 < lo + n)))

end Sys2Proof.Machine
end

