-- ==== Sys2Proof/Machine/Bits.lean ====
section
/-!
DEFINITION. Bit fields, sign extension and byte order (R6, R7), once for the whole model.
-/
namespace Sys2Proof.Machine

/-- Bits `[hi:lo]` of a natural number (R6). -/
def bits (x hi lo : Nat) : Nat := (x >>> lo) % 2 ^ (hi + 1 - lo)

/-- Bit `[i]` of a natural number, as a Bool. -/
def bit (x i : Nat) : Bool := (x >>> i) % 2 == 1

/-- Bits `[hi:lo]` of a 64-bit word. -/
def fld (x : W64) (hi lo : Nat) : Nat := bits x.toNat hi lo

/-- Bit `[i]` of a 64-bit word. -/
def fbit (x : W64) (i : Nat) : Bool := x.getLsbD i

/-- The word with ones at `[hi:lo]`. -/
def maskW (hi lo : Nat) : W64 := BitVec.ofNat 64 ((2 ^ (hi + 1 - lo) - 1) <<< lo)

/-- A 64-bit word with `[hi:lo]` replaced by `v`. -/
def setFld (x : W64) (hi lo v : Nat) : W64 :=
  (x &&& ~~~ maskW hi lo) ||| (BitVec.ofNat 64 (v <<< lo) &&& maskW hi lo)

/-- A Bool as a bit. -/
def b2n (b : Bool) : Nat := if b then 1 else 0

/-- The two's-complement value of the low `w` bits of `x`. -/
def signed (w x : Nat) : Int :=
  let y := x % 2 ^ w
  if y < 2 ^ (w - 1) then (y : Int) else (y : Int) - ((2 ^ w : Nat) : Int)

/-- The low `w` bits of an integer in two's complement. -/
def unsigned (w : Nat) (i : Int) : Nat := (i % ((2 ^ w : Nat) : Int)).toNat

/-- The little-endian value of a list of bytes (R7). -/
def leNat : List Byte → Nat
  | [] => 0
  | b :: bs => b.toNat + 256 * leNat bs

/-- The `n` little-endian bytes of a number (R7). -/
def leBytes : Nat → Nat → List Byte
  | 0, _ => []
  | n + 1, x => BitVec.ofNat 8 (x % 256) :: leBytes n (x / 256)

/-- The bytes of 64-bit words, each little-endian, in order. -/
def wordsBytes (ws : List W64) : List Byte := ws.flatMap (fun w => leBytes 8 w.toNat)

/-- The first `n` 64-bit words of a list of bytes. -/
def bytesWords : Nat → List Byte → List W64
  | 0, _ => []
  | n + 1, bs => BitVec.ofNat 64 (leNat (bs.take 8)) :: bytesWords n (bs.drop 8)

/-- Round `x` up to a multiple of `m`. -/
def roundUp (x m : Nat) : Nat := (x + m - 1) / m * m

/-- `ceil (a / b)`. -/
def ceilDiv (a b : Nat) : Nat := (a + b - 1) / b

/-- `ceil (a / b)` over the integers, for positive `b`. -/
def ceilDivI (a b : Int) : Int := -((-a) / b)

/-- The smaller of `x` and the largest `w`-bit number: a counter field that saturates. -/
def satN (w x : Nat) : Nat := min x (2 ^ w - 1)

/-- Replace element `i` of a list by `f` of it. -/
def modAt {α : Type} (l : List α) (i : Nat) (f : α → α) : List α :=
  match l, i with
  | [], _ => []
  | x :: xs, 0 => f x :: xs
  | x :: xs, n + 1 => x :: modAt xs n f

/-- The numbers `lo, lo + 1, …, lo + n - 1`. -/
def rangeFrom (lo n : Nat) : List Nat := (List.range n).map (lo + ·)

/-- All entries satisfy a test that also sees their index. -/
def allIdx {α : Type} (p : Nat → α → Bool) : Nat → List α → Bool
  | _, [] => true
  | i, x :: xs => p i x && allIdx p (i + 1) xs

end Sys2Proof.Machine
end

