-- ==== Sys2Proof/Machine/Ecc.lean ====
section
/-!
DEFINITION. The codes of chapter 9: the Reed-Solomon symbol code of a stack (R236-R238), the BCH word code of SRAM
(R244, R246), the interface CRC-16 (R239), and the CRC-32C of the output digest (R370). Both decoders see only the error
pattern: the codes are linear, so the syndromes of a stored word are those of its error.
-/
namespace Sys2Proof.Machine

/-- Multiply by x in a field of `2^w` elements with reduction polynomial `poly`. -/
def gfTimesX (w poly a : Nat) : Nat := if a < 2 ^ (w - 1) then 2 * a else (2 * a) ^^^ poly

/-- `a * x^k`. -/
def gfMulPow (w poly a : Nat) : Nat → Nat
  | 0 => a
  | k + 1 => gfTimesX w poly (gfMulPow w poly a k)

/-- GF(2^8) with 0x11D (R236): `a * alpha^k`. -/
def gfA (a k : Nat) : Nat := gfMulPow 8 0x11D a k

/-- Syndromes of the 18 symbols of a codeword (R236). -/
def rsSyn (c : List Nat) : Nat × Nat :=
  (c.foldl (fun a v => a ^^^ v) 0, (c.zipIdx).foldl (fun a v => a ^^^ gfA v.1 v.2) 0)

/-- Product in GF(2^8), by bits of the second factor. -/
def gfMul (a b : Nat) : Nat := (List.range 8).foldl (fun r i => if bit b i then r ^^^ gfA a i else r) 0

/-- The inverse in GF(2^8): `a^254`. -/
def gfInv (a : Nat) : Nat :=
  let a2 := gfMul a a; let a4 := gfMul a2 a2; let a8 := gfMul a4 a4
  let a16 := gfMul a8 a8; let a32 := gfMul a16 a16; let a64 := gfMul a32 a32; let a128 := gfMul a64 a64
  gfMul (gfMul (gfMul a128 a64) (gfMul a32 a16)) (gfMul (gfMul a8 a4) a2)

/-- The check symbols c16, c17 of sixteen data symbols (R237). -/
def rsEncode (c : List Nat) : Nat × Nat :=
  let p := c.foldl (fun a v => a ^^^ v) 0
  let q := (c.zipIdx).foldl (fun a v => a ^^^ gfA v.1 v.2) 0
  let c17 := gfMul (q ^^^ gfA p 16) (gfInv (gfA 1 16 ^^^ gfA 1 17))
  (p ^^^ c17, c17)

/-- The outcome of one codeword (R238). -/
inductive RsOut where
  | clean
  | fix (k v : Nat)
  | erase (v : Nat)
  | bad
deriving DecidableEq, Repr

/-- Decode one codeword from its errors, given the die marked failed. -/
def rsDecode (marked : Option Nat) (err : List Nat) : RsOut :=
  let y := rsSyn err
  match marked with
  | none =>
    if y.1 = 0 then (if y.2 = 0 then .clean else .bad)
    else match (List.range 18).find? (fun k => gfA y.1 k == y.2) with
      | some k => .fix k y.1
      | none => .bad
  | some f => if y.2 = gfA y.1 f then (if y.1 = 0 then .clean else .erase y.1) else .bad

/-- The outcome of a block (R238): clean, corrected at die k, reconstructed, uncorrectable. -/
inductive BlkOut where
  | clean | fixed (k : Nat) | erased | bad
deriving DecidableEq, Repr

/-- Decode the sixteen codewords of a block: outcome, and the errors that remain in the delivered data. `strict`: every
error counts as uncorrectable (R243, after a second failed die). -/
def blockDecode (marked : Option Nat) (strict : Bool) (errs : List (List Nat)) : BlkOut × List (List Nat) :=
  let outs := errs.map (rsDecode marked)
  let ks := outs.filterMap (fun o => match o with | .fix k _ => some k | _ => none)
  let anyErase := outs.any (fun o => match o with | .erase _ => true | _ => false)
  let left := List.zipWith (fun err o => match o with
    | .fix k v => modAt err k (· ^^^ v)
    | .erase v => (match marked with | some f => modAt err f (· ^^^ v) | none => err)
    | _ => err) errs outs
  if outs.any (· == .bad) then (.bad, errs)
  else match ks with
    | [] => if anyErase then (if strict then (.bad, errs) else (.erased, left)) else (.clean, left)
    | k :: rest => if strict || rest.any (· != k) then (.bad, errs) else (.fixed k, left)

/-! ### BCH word code (R244, R246) -/

/-- GF(2^7) with x^7 + x^3 + 1: alpha^k. -/
def bchA (k : Nat) : Nat := gfMulPow 7 0x89 1 (k % 127)

/-- Exponent of the polynomial for stored bit `i` of the 80 (Table DI-3): data 0-63, BCH 64-77, POISON 78; PARITY (79)
has none. -/
def bchExp (i : Nat) : Option Nat :=
  if i < 64 then some (i + 14) else if i < 78 then some (i - 64) else if i = 78 then some 78 else none

/-- The stored bit with a polynomial exponent, if any. -/
def bchBit (k : Nat) : Option Nat :=
  if k < 14 then some (64 + k) else if k < 78 then some (k - 14) else if k = 78 then some 78 else none

/-- The generator g(x) = m1(x) m3(x) (R244): (x^7 + x^3 + 1)(x^7 + x^3 + x^2 + x + 1). -/
def bchGen : Nat := 0x4377

/-- A polynomial of degree below 79 modulo g(x). -/
def bchRem (v : Nat) : Nat := (List.range 65).foldl (fun v i => if bit v (78 - i) then v ^^^ (bchGen * 2 ^ (64 - i)) else v) v

/-- The check bits `BCH` of a data word and its `POISON` (R244). -/
def bchField (d : Nat) (poison : Bool) : Nat := bchRem (d * 2 ^ 14 + b2n poison * 2 ^ 78)

/-- The parity of the low `n` bits. -/
def parityOf (n v : Nat) : Bool := (List.range n).foldl (fun p i => p != bit v i) false

/-- The 80 bits that are stored for a word (Table DI-3): data, `BCH`, `POISON`, `PARITY`. -/
def sramStored (d : W64) (poison : Bool) : BitVec 80 :=
  let w := d.toNat + bchField d.toNat poison * 2 ^ 64 + b2n poison * 2 ^ 78
  BitVec.ofNat 80 (w + b2n (parityOf 79 w) * 2 ^ 79)

/-- Syndromes and overall parity of an error pattern of the 80 bits. -/
def bchSyn (e : Nat) : Nat × Nat × Bool :=
  (List.range 80).foldl (fun a i =>
    if bit e i then
      match bchExp i with
      | some k => (a.1 ^^^ bchA k, a.2.1 ^^^ bchA (3 * k), !a.2.2)
      | none => (a.1, a.2.1, !a.2.2)
    else a) (0, 0, false)

/-- The outcome of the SRAM decoder: nothing seen, corrected (with the bits that it flips), uncorrectable. -/
inductive BchOut where
  | clean | fixed (flip : Nat) | bad
deriving DecidableEq, Repr

/-- Decode an error pattern: the unique pattern of at most two bits with the same syndromes, if there is one (R246). -/
def bchDecode (e : Nat) : BchOut :=
  let y := bchSyn e
  let par := 2 ^ 79
  if y.1 = 0 ∧ y.2.1 = 0 then (if y.2.2 then .fixed par else .clean)
  else
    let one := (List.range 79).find? (fun k => bchA k == y.1 && bchA (3 * k) == y.2.1)
    match one with
    | some k =>
      let b := 2 ^ ((bchBit k).getD 0)
      if y.2.2 then .fixed b else .fixed (b + par)
    | none =>
      if y.2.2 then .bad
      else
        match (List.range 79).findSome? (fun i =>
          let r1 := y.1 ^^^ bchA i
          let r3 := y.2.1 ^^^ bchA (3 * i)
          (rangeFrom (i + 1) (78 - i)).findSome? (fun j => if bchA j == r1 && bchA (3 * j) == r3 then some (i, j) else none)) with
        | some (i, j) => .fixed (2 ^ ((bchBit i).getD 0) + 2 ^ ((bchBit j).getD 0))
        | none => .bad

/-! ### CRCs -/

/-- One bit of a reflected CRC. -/
def crcBit (poly : Nat) (c : Nat) : Nat := if c % 2 = 1 then (c / 2) ^^^ poly else c / 2

/-- One byte of CRC-32C (Castagnoli, reflected 0x82F63B78; PRESUMED parameters, log entry 21). -/
def crc32cByte (c : Nat) (b : Byte) : Nat :=
  (List.range 8).foldl (fun x _ => crcBit 0x82F63B78 x) (c ^^^ b.toNat)

/-- CRC-32C of a list of bytes, initial and final inversion. -/
def crc32c (bs : List Byte) : Nat := (bs.foldl crc32cByte 0xFFFFFFFF) ^^^ 0xFFFFFFFF

/-- One bit of CRC-16 (R239): x^16 + x^15 + x^2 + 1, most significant bit first (PRESUMED bit order, log entry 21). -/
def crc16Bit (c : Nat) (b : Bool) : Nat :=
  let t := (bit c 15) != b
  let c := (2 * c) % 65536
  if t then c ^^^ 0x8005 else c

/-- The CRC-16 of a block on the base-die interface (R239). -/
def crc16 (bs : List Byte) : Nat :=
  bs.foldl (fun c b => (List.range 8).foldl (fun c i => crc16Bit c (bit b.toNat (7 - i))) c) 0xFFFF

/-- Does a block that arrives with `err` XORed into it pass the check of the CRC that it was sent with (R239)? -/
def crcPasses (sent : List Byte) (err : List Byte) : Bool := crc16 (List.zipWith (fun a b => a ^^^ b) sent err) == crc16 sent

/-- Does the receiving side take a crossing that brings the pattern `err`? The code is linear, so the verdict is that on a block of
zeros. -/
def crcTakes (err : List Byte) : Bool :=
  err.all (· == 0#8) || crcPasses (List.replicate 256 0#8) ((err ++ List.replicate 256 0#8).take 256)

/-- How a block crosses the interface (R239): the attempts that mismatch, whether one arrives, what it brings that the check has not
seen, and the attempts left for the block's next crossing. -/
structure Cross where
  bad : Nat
  ok : Bool
  left : List Byte
  rest : List (List Byte)
deriving DecidableEq, Repr

/-- The first attempt and its retries. -/
def crossGo : Nat → List (List Byte) → Cross
  | 0, ts => ⟨0, false, [], ts⟩
  | _ + 1, [] => ⟨0, true, [], []⟩
  | n + 1, t :: ts =>
    if crcTakes t then ⟨0, true, t, ts⟩
    else
      let r := crossGo n ts
      { r with bad := r.bad + 1 }

/-- One crossing: an attempt and up to 3 retries. -/
def crossOnce (ts : List (List Byte)) : Cross := crossGo 4 ts

/-! ### The checkers' self-test (R257, Table DI-7) -/

/-- What a decoder says: clean or passing, corrected or reconstructed at places (a mask), uncorrectable or mismatching; and `POISON`, or a
block that reads as poisoned. -/
structure TestOut where
  status : Nat
  places : Nat := 0
  poison : Bool := false
  /-- The data delivered, where the outcome delivers any. -/
  data : Nat := 0
deriving DecidableEq, Repr

/-- Outputs as one number (log entry 97): status in bits 1:0, poison in bit 2, places in bits 87:8, data from bit 88. -/
def TestOut.code (o : TestOut) : Nat := o.status + 4 * b2n o.poison + 256 * (o.places % 2 ^ 80) + o.data * 2 ^ 88

/-- The codes under test: SRAM decoders, stack decoders, interface CRC. -/
inductive TestCode where
  | bch | rs | crc
deriving DecidableEq, Repr

/-- How many patterns Table DI-7 gives a code. -/
def TestCode.patterns : TestCode → Nat
  | .bch => 284 | .rs => 129 | .crc => 3

/-- The word that an SRAM test stores: the first four patterns of Table DI-7 give data and `POISON`; the others, which give neither,
are driven on the word of zeros (log entry 97). -/
def bchData (n : Nat) : Nat := if n = 1 ∨ n = 3 then 2 ^ 64 - 1 else 0

/-- The poison pattern of a block as a number (R247). -/
def poisonData : Nat := leNat ((List.range 64).flatMap (fun _ => [0x0F#8, 0x00#8, 0xC0#8, 0x7F#8]))

/-- The block that a stack test stores: the poison pattern where Table DI-7 names it, else zeros (log entry 97). -/
def rsData (n : Nat) : Nat := if n = 1 ∨ n = 2 then poisonData else 0

/-- The expected result of a pattern, numbered in the order of Table DI-7. -/
def testExpect : TestCode → Nat → TestOut
  | .bch, n =>
    if n < 4 then { status := 0, poison := decide (2 ≤ n), data := bchData n }
    else if n < 84 then { status := 1, places := 2 ^ (n - 4), data := bchData n }
    else if n < 164 then { status := 1, places := 2 ^ (n - 84) + 2 ^ ((n - 83) % 80), data := bchData n }
    else if n < 204 then { status := 1, places := 2 ^ (n - 164) + 2 ^ (n - 124), data := bchData n }
    else { status := 2 }
  | .rs, n =>
    if n = 0 then { status := 0 }
    else if n = 1 then { status := 0, poison := true, data := rsData n }
    else if n = 2 then { status := 1, places := 1, poison := true, data := rsData n }
    else if n < 75 then { status := 1, places := 2 ^ ((n - 3) / 4), data := rsData n }
    else if n < 93 then { status := 2 }
    else if n % 2 = 1 then { status := 1, places := 2 ^ ((n - 93) / 2), data := rsData n }
    else { status := 2 }
  | .crc, n => { status := if n = 0 then 0 else 2 }

/-- The error pattern of an SRAM test. -/
def bchTest (n : Nat) : Nat :=
  if n < 4 then 0
  else if n < 84 then 2 ^ (n - 4)
  else if n < 164 then 2 ^ (n - 84) + 2 ^ ((n - 83) % 80)
  else if n < 204 then 2 ^ (n - 164) + 2 ^ (n - 124)
  else 2 ^ (n - 204) + 2 ^ ((n - 203) % 80) + 2 ^ ((n - 202) % 80)

/-- An error in one symbol of a codeword. -/
def oneSym (k v : Nat) : List Nat := modAt (List.replicate 18 0) k (fun _ => v)

/-- The marked die and the errors of the sixteen codewords of a stack test. -/
def rsTest (n : Nat) : Option Nat × List (List Nat) :=
  let all (c : List Nat) := List.replicate 16 c
  if n < 2 then (none, all (oneSym 0 0))
  else if n = 2 then (none, oneSym 0 1 :: List.replicate 15 (oneSym 0 0))
  else if n < 75 then (none, all (oneSym ((n - 3) / 4) ([0x01, 0x80, 0xFF, 0x5A].getD ((n - 3) % 4) 0)))
  else if n < 92 then (none, all (modAt (oneSym (n - 75) 1) (n - 74) (fun _ => 1)))
  else if n = 92 then (none, oneSym 3 1 :: oneSym 9 1 :: List.replicate 14 (oneSym 0 0))
  else
    let f := (n - 93) / 2
    let c := oneSym f 0xA5
    (some f, all (if n % 2 = 1 then c else modAt c ((f + 1) % 18) (fun _ => 1)))

/-- The data of a block as a number, with the errors that decoding has left in its codewords. -/
def rsLeft (sent : Nat) (left : List (List Nat)) : Nat :=
  (left.zipIdx).foldl (fun a c => (c.1.take 16).zipIdx.foldl (fun a v => a ^^^ (v.1 * 2 ^ (8 * (16 * c.2 + v.2)))) a) sent

/-- What the decoders of this model say to a pattern. -/
def testRun : TestCode → Nat → TestOut
  | .bch, n =>
    let p := decide (n < 4 ∧ 2 ≤ n)
    match bchDecode (bchTest n) with
    | .clean => { status := 0, poison := p, data := (bchData n ^^^ bchTest n) % 2 ^ 64 }
    | .fixed f => { status := 1, places := f, poison := p, data := (bchData n ^^^ bchTest n ^^^ f) % 2 ^ 64 }
    | .bad => { status := 2 }
  | .rs, n =>
    let t := rsTest n
    let r := blockDecode t.1 false t.2
    let d := rsLeft (rsData n) r.2
    match r.1 with
    | .clean => { status := 0, poison := d == poisonData, data := d }
    | .fixed k => { status := 1, places := 2 ^ k, poison := d == poisonData, data := d }
    | .erased => { status := 1, places := 2 ^ (t.1.getD 0), poison := d == poisonData, data := d }
    | .bad => { status := 2 }
  | .crc, n =>
    let blk := List.replicate 256 (0#8 : Byte)
    let err := if n = 0 then blk else if n = 1 then 1#8 :: blk.drop 1 else blk.take 255 ++ [0x80#8]
    { status := if crcPasses blk err then 0 else 2 }

/-- The outputs in bytes, whole: those of a stack's decoder with the 64 bytes of the block, else with the eight bytes of a word. -/
def outBytes (c : TestCode) (outputs : Nat) : List Byte := leBytes (if c = .rs then 75 else 19) outputs

/-- The code of a decoder by its number (log entry 97): stacks, base-die interfaces, then SRAM. -/
def testCodeOf (decoder : Nat) : TestCode := if decoder < 24 then .rs else if decoder < 48 then .crc else .bch

/-- Do the outputs of a decoder differ from what Table DI-7 expects? -/
def testFails (decoder pattern outputs : Nat) : Bool := (testExpect (testCodeOf decoder) pattern).code != outputs

end Sys2Proof.Machine
end

