-- ==== Sys2Proof/Config.lean ====
section
/-!
DEFINITION. What an implementation fixes, what the manual leaves open and what it takes from a named standard without
giving it: constants with no body. Nothing in Lean can evaluate one, so a claim holds whatever its value is.
-/
namespace Sys2Proof.Config

/-- Free values (log entry 1): the byte that an operand whose value the manual leaves unspecified holds. Applied to the
counter `State.free`, which advances with each one taken. -/
opaque freeByte : Nat → Byte

/-- Free 64-bit values, taken in the same way (log entry 1). -/
opaque freeWord : Nat → W64

/-- The fused voltage and frequency table of the module (R59): millivolts for a frequency code in 50 MHz steps. -/
opaque fusedMv : Nat → Nat

/-- The fixed hash `h` of R333 (log entry 20): of `DST` with `GROUP` and `SEQ`, or with `STREAM`. -/
opaque routeHash : Nat → Nat → Nat → Nat

/-- The member number of the range's frame master, to which READY packets go (R344; log entry 23): no register holds it. -/
opaque masterMember : Nat

/-- SHA-384 (R443, R444, R448, R467; log entry 30): 48 bytes. -/
opaque sha384 : List Byte → List Byte

/-- HMAC-SHA-384 of a message under a key (R449; log entry 30). -/
opaque hmac384 : List Byte → List Byte → List Byte

/-- ECDSA P-384 verification of a digest under a compressed public key and a signature (r, s) (R444; log entry 30). -/
opaque ecdsaVerify : List Byte → List Byte → List Byte → List Byte → Bool

/-- ECDSA P-384 signature of a message under a private key (R448; log entry 30). -/
opaque ecdsaSign : List Byte → List Byte → List Byte

/-- The key-derivation block (R434, R448): the identity key for a measurement of the running Chimney image. -/
opaque deriveIdentity : List Byte → List Byte

/-- The fused SHA-384 hash of the public key of slot 0-3 (R443). -/
opaque fusedKeyHash : Nat → List Byte

/-- Whether the signing key of a slot is revoked in fuses (R443). -/
opaque keyRevoked : Nat → Bool

/-- The PCI vendor ID of the module's vendor-defined messages (R437; log entry 31). -/
opaque pciVendorId : Nat

/-- Dwegerad's root and the device certificate, signed at the factory and stored in flash (R448; log entry 30). -/
opaque rootCert : List Byte
opaque deviceCert : List Byte

/-- The device key, derived from the unique device secret alone (R448; log entry 30). -/
opaque deviceKey : List Byte

/-- What the third certificate says of an identity key, before its signature (R448; log entry 30). -/
opaque certBody : List Byte → List Byte

/-- The MCTP transmission unit of a binding, before it is held to R437's range (R437 gives a range only). -/
opaque mctpUnit : Nat → Nat

/-- The body of an answer that a named standard defines and the manual does not give (R437, R445, R448; log entry 30):
for a message kind, the request's bytes and the digest of the answering state. -/
opaque standardBody : Nat → List Byte → List Byte → List Byte

/-- Session keys of an SPDM session from the exchange and the connection's randomness (R448; log entry 30). -/
opaque sessionKey : List Byte → Nat → List Byte

/-- Whether a message authenticates under a session's keys (R448, R450; log entry 30). -/
opaque authOk : List Byte → List Byte → Bool

/-- The image of a component as the factory programmed it in both banks (R447; log entry 32). -/
opaque factoryImage : Nat → List Byte

/-- How the content of a vendor-defined answer is laid out in bytes after its status byte (Table MG-5; log entry 33). -/
opaque answerBytes : Nat → List Int → List Byte

/-- The arguments that the bytes of a vendor-defined request spell after its message code (Table MG-5; log entry 33). -/
opaque requestArgs : Nat → List Byte → List Nat

/-- Where the PCI Express, power-management, AER and MSI-X capabilities lie in configuration space (R385; log entry 34). -/
opaque pcieCap : Nat
opaque pmCap : Nat
opaque aerCap : Nat
opaque msixCap : Nat

/-- A dword of PCIe configuration space: for its offset and what was last written to it (log entry 34). -/
opaque cfgRead : Nat → Option W32 → W32

end Sys2Proof.Config
end

