-- ==== Sys2Proof/Machine/Num.lean ====
section
/-!
DEFINITION. Number formats (03_number_formats, R64-R93): exact values, rounding, the arithmetic of ZA32, ZM32 words,
block scales, stochastic rounding and the conversions. A value is exact until an operation rounds it.
-/
namespace Sys2Proof.Machine

/-- The four status flags (R80, Table NF-5). -/
structure Flags where
  nv : Bool := false
  ov : Bool := false
  uf : Bool := false
  nx : Bool := false
deriving DecidableEq, Repr

/-- Flags are sticky: the OR of two sets (R81). -/
def Flags.or (a b : Flags) : Flags := ⟨a.nv || b.nv, a.ov || b.ov, a.uf || b.uf, a.nx || b.nx⟩

/-- The flags as bits [3:0]: NV, OF, UF, NX (Table RG-4, R370). -/
def Flags.toNat (f : Flags) : Nat := b2n f.nv + 2 * b2n f.ov + 4 * b2n f.uf + 8 * b2n f.nx

def fNV : Flags := { nv := true }
def fOV : Flags := { ov := true }

/-- An exact value: `m * 2^e`, an infinity, or a NaN with its cause (R67). -/
inductive Ex where
  | fin (m e : Int)
  | inf (neg : Bool)
  | nan (c : Nat)
deriving DecidableEq, Repr

def Ex.zero : Ex := .fin 0 0

/-- `2^k` for a natural `k` given as an integer (0 below). -/
def pow2 (k : Int) : Nat := 2 ^ k.toNat

/-- The integer `m * 2^(e - lo)`, for `lo ≤ e`. -/
def alignTo (lo m e : Int) : Int := m * (pow2 (e - lo) : Int)

/-- Exact sum of two finite values. -/
def finAdd (m1 e1 m2 e2 : Int) : Int × Int :=
  let lo := min e1 e2
  (alignTo lo m1 e1 + alignTo lo m2 e2, lo)

/-- Is `m1 * 2^e1 < m2 * 2^e2`? -/
def finLt (m1 e1 m2 e2 : Int) : Bool :=
  let lo := min e1 e2
  decide (alignTo lo m1 e1 < alignTo lo m2 e2)

/-- Multiply an exact value by `2^s` (a block scale, R73). -/
def Ex.scale (s : Int) : Ex → Ex
  | .fin m e => .fin m (e + s)
  | x => x

def Ex.neg : Ex → Ex
  | .fin m e => .fin (-m) e
  | .inf n => .inf (!n)
  | x => x

def Ex.isNan : Ex → Bool
  | .nan _ => true
  | _ => false

def Ex.isFinite : Ex → Bool
  | .fin _ _ => true
  | _ => false

/-- The sign of an exact value (zero and NaN count as positive). -/
def Ex.isNeg : Ex → Bool
  | .fin m _ => decide (m < 0)
  | .inf n => n
  | .nan _ => false

/-- Order of two values that are not NaN. -/
def Ex.lt : Ex → Ex → Bool
  | .fin m1 e1, .fin m2 e2 => finLt m1 e1 m2 e2
  | .inf true, .inf true => false
  | .inf true, _ => true
  | .inf false, _ => false
  | .fin _ _, .inf n => !n
  | _, _ => false

/-- The quotient `a / b` rounded to nearest, ties to even, and whether it was inexact (R76). -/
def rneDiv (a b : Nat) : Nat × Bool :=
  let q := a / b
  let r := a % b
  (if 2 * r < b then q else if b < 2 * r then q + 1 else q + q % 2, r != 0)

/-- An integer quotient `a / b` (`b > 0`) rounded to nearest, ties to even. -/
def rneDivI (a : Int) (b : Nat) : Int :=
  if a < 0 then -((rneDiv a.natAbs b).1 : Int) else ((rneDiv a.natAbs b).1 : Int)

/-- A binary format: width, fraction bits, bias, and the pattern of the largest finite magnitude (Table NF-1 and
IEEE 754). -/
structure Fmt where
  width : Nat
  frac : Nat
  bias : Nat
  top : Nat
deriving DecidableEq, Repr

def fmtZF8 : Fmt := ⟨8, 3, 8, 0x7F⟩
def fmtZG8 : Fmt := ⟨8, 2, 16, 0x7F⟩
def fmtZF16 : Fmt := ⟨16, 9, 32, 0x7FFF⟩
def fmtZG16 : Fmt := ⟨16, 7, 128, 0x7FFF⟩
def fmtZA32 : Fmt := ⟨32, 23, 127, 0x7F7FFFFF⟩
def fmtB16 : Fmt := ⟨16, 10, 15, 0x7BFF⟩
def fmtBF16 : Fmt := ⟨16, 7, 127, 0x7F7F⟩

/-- The magnitude pattern nearest to `m * 2^e` as though the exponent had no upper limit, on the subnormal grid below the
smallest normal (R76), and whether it is inexact. With `r`, the stochastic rounding of R79 with that noise word. -/
def magRound (f : Fmt) (r : Option Nat) (m : Nat) (e : Int) : Nat × Bool :=
  if m = 0 then (0, false) else
    let top : Int := (Nat.log2 m : Int) + e
    let ee := max top (1 - (f.bias : Int))
    let k := e - (ee - (f.frac : Int))
    let base := (ee + (f.bias : Int) - 1).toNat * 2 ^ f.frac
    if 0 ≤ k then (base + m * pow2 k, false)
    else
      let d := pow2 (-k)
      match r with
      | none => let q := rneDiv m d; (base + q.1, q.2)
      | some w =>
        let lo := m / d
        let dd := (m % d) * 2 ^ 32 / d
        (base + (if 2 ^ 32 ≤ dd + w ∧ m % d ≠ 0 then lo + 1 else lo), m % d != 0)

/-- Is `m * 2^e` below the smallest normal magnitude of the format? -/
def belowNormal (f : Fmt) (m : Nat) (e : Int) : Bool := finLt (m : Int) e 1 (1 - (f.bias : Int))

/-- The value of a magnitude pattern (R65, and IEEE for finite patterns). -/
def magValue (f : Fmt) (p : Nat) : Int × Int :=
  let ex := p / 2 ^ f.frac
  let fr := p % 2 ^ f.frac
  if ex = 0 then ((fr : Int), 1 - (f.bias : Int) - (f.frac : Int))
  else ((fr + 2 ^ f.frac : Nat), (ex : Int) - (f.bias : Int) - (f.frac : Int))

/-- Put a sign on a magnitude pattern; a zero is always the all-zero pattern (R66, R69, R88). -/
def withSign (f : Fmt) (neg : Bool) (p : Nat) : Nat := if p = 0 then 0 else if neg then p + 2 ^ (f.width - 1) else p

/-- The value of a narrow vendor pattern (R65). -/
def narrowVal (f : Fmt) (x : Nat) : Ex :=
  let p := x % 2 ^ (f.width - 1)
  let neg := bit x (f.width - 1)
  if neg && p == 0 then .nan 1
  else
    let v := magValue f p
    .fin (if neg then -v.1 else v.1) v.2

/-- The value of an IEEE pattern; every NaN has cause 1 (R67). -/
def ieeeVal (f : Fmt) (x : Nat) : Ex :=
  let p := x % 2 ^ (f.width - 1)
  let neg := bit x (f.width - 1)
  if f.top < p then (if p = f.top + 1 then .inf neg else .nan 1)
  else
    let v := magValue f p
    .fin (if neg then -v.1 else v.1) v.2

/-- The value of a ZA32 or binary32 pattern, with the canonical causes 1-4 (R67). -/
def za32Val (x : Nat) : Ex :=
  if 0x7FC00001 ≤ x ∧ x ≤ 0x7FC00004 then .nan (x - 0x7FC00000) else ieeeVal fmtZA32 x

/-- The canonical NaN of a cause (R67). -/
def nan32 (c : Nat) : W32 := BitVec.ofNat 32 (0x7FC00000 + c)

def inf32 (neg : Bool) : W32 := if neg then 0xFF800000#32 else 0x7F800000#32

/-- The exact value of a ZA32 word. -/
def W32.ex (x : W32) : Ex := za32Val x.toNat

/-- Round a finite value into ZA32 as a product or a sum is rounded (R76, R80): overflow gives an infinity. -/
def round32 (m e : Int) : W32 × Flags :=
  let r := magRound fmtZA32 none m.natAbs e
  if fmtZA32.top < r.1 then (inf32 (decide (m < 0)), fOV)
  else (BitVec.ofNat 32 (withSign fmtZA32 (decide (m < 0)) r.1),
    { uf := r.2 && belowNormal fmtZA32 m.natAbs e, nx := r.2 })

/-- An exact value as a ZA32 result. -/
def toZA32 : Ex → W32 × Flags
  | .fin m e => round32 m e
  | .inf n => (inf32 n, {})
  | .nan c => (nan32 c, fNV)

/-- The product of two values, rounded once to ZA32 (R83, Table NF-6, R68). -/
def mulEx : Ex → Ex → W32 × Flags
  | .nan a, .nan b => (nan32 (min a b), fNV)
  | .nan a, _ => (nan32 a, fNV)
  | _, .nan b => (nan32 b, fNV)
  | .inf a, .inf b => (inf32 (a != b), {})
  | .inf a, .fin m _ => if m = 0 then (nan32 3, fNV) else (inf32 (a != decide (m < 0)), {})
  | .fin m _, .inf b => if m = 0 then (nan32 3, fNV) else (inf32 (b != decide (m < 0)), {})
  | .fin m1 e1, .fin m2 e2 => round32 (m1 * m2) (e1 + e2)

/-- The sum of two values, rounded once to ZA32 (R84, Table NF-7, R68). -/
def addEx : Ex → Ex → W32 × Flags
  | .nan a, .nan b => (nan32 (min a b), fNV)
  | .nan a, _ => (nan32 a, fNV)
  | _, .nan b => (nan32 b, fNV)
  | .inf a, .inf b => if a = b then (inf32 a, {}) else (nan32 2, fNV)
  | .inf a, .fin _ _ => (inf32 a, {})
  | .fin _ _, .inf b => (inf32 b, {})
  | .fin m1 e1, .fin m2 e2 => let s := finAdd m1 e1 m2 e2; round32 s.1 s.2

/-- ZA32 product, sum and difference of two words; the difference is A + (-B) (Table UE-9). -/
def mulZ (a b : W32) : W32 × Flags := mulEx (W32.ex a) (W32.ex b)
def addZ (a b : W32) : W32 × Flags := addEx (W32.ex a) (W32.ex b)
def subZ (a b : W32) : W32 × Flags := addEx (W32.ex a) (W32.ex b).neg

/-- A word as an operation delivers it unchanged: a zero as +0, a NaN canonical and with NV (R67, R298). -/
def canonZ (a : W32) : W32 × Flags := toZA32 (W32.ex a)

/-- -A and |A| (Table UE-9). -/
def negZ (a : W32) : W32 × Flags := toZA32 (W32.ex a).neg
def absZ (a : W32) : W32 × Flags := let x := W32.ex a; toZA32 (if x.isNeg then x.neg else x)

/-- MIN and MAX (R298): a NaN operand gives the NaN; otherwise values are ordered by magnitude with sign. -/
def minZ (a b : W32) : W32 × Flags :=
  match W32.ex a, W32.ex b with
  | .nan x, .nan y => (nan32 (min x y), fNV)
  | .nan x, _ => (nan32 x, fNV)
  | _, .nan y => (nan32 y, fNV)
  | x, y => toZA32 (if Ex.lt y x then y else x)
def maxZ (a b : W32) : W32 × Flags :=
  match W32.ex a, W32.ex b with
  | .nan x, .nan y => (nan32 (min x y), fNV)
  | .nan x, _ => (nan32 x, fNV)
  | _, .nan y => (nan32 y, fNV)
  | x, y => toZA32 (if Ex.lt x y then y else x)

/-- `num / den * 2^e` with a sticky last bit: enough bits that one rounding of it is the correct rounding. -/
def stickyDiv (num den : Nat) (e : Int) : Nat × Int :=
  let k := 80 + Nat.log2 den
  let q := (num <<< k) / den
  let r := (num <<< k) % den
  (2 * q + (if r = 0 then 0 else 1), e - (k : Int) - 1)

/-- The correctly rounded quotient of two ZA32 words, the second finite and not zero (R164). -/
def divZ (a b : W32) : W32 × Flags :=
  match W32.ex a, W32.ex b with
  | .fin m1 e1, .fin m2 e2 =>
    if m2 = 0 then (nan32 1, fNV) else
      let q := stickyDiv m1.natAbs m2.natAbs (e1 - e2)
      round32 (if (decide (m1 < 0)) != (decide (m2 < 0)) then -(q.1 : Int) else (q.1 : Int)) q.2
  | .nan x, _ => (nan32 x, fNV)
  | .inf n, .fin m _ => (inf32 (n != decide (m < 0)), {})
  | _, _ => (nan32 1, fNV)

/-- Integer square root, one bit at a time from bit `k` down. -/
def isqrtGo (n : Nat) : Nat → Nat → Nat
  | 0, r => if (r + 1) * (r + 1) ≤ n then r + 1 else r
  | k + 1, r =>
    let t := r + 2 ^ (k + 1)
    isqrtGo n k (if t * t ≤ n then t else r)

/-- The integer square root of `n`. -/
def isqrt (n : Nat) : Nat := isqrtGo n (Nat.log2 n / 2 + 1) 0

/-- The square root of `m * 2^e` with a sticky last bit. -/
def stickySqrt (m : Nat) (e : Int) : Nat × Int :=
  let odd := e % 2 != 0
  let m1 := (if odd then 2 * m else m) <<< 160
  let e1 := (if odd then e - 1 else e) - 160
  let r := isqrt m1
  (2 * r + (if r * r = m1 then 0 else 1), e1 / 2 - 1)

/-- SQRT, RSQRT and RECIP (R299): odd functions, correctly rounded. -/
def sqrtZ (a : W32) : W32 × Flags :=
  match W32.ex a with
  | .nan c => (nan32 c, fNV)
  | .inf n => (inf32 n, {})
  | .fin m e =>
    let r := stickySqrt m.natAbs e
    round32 (if m < 0 then -(r.1 : Int) else (r.1 : Int)) r.2
def recipZ (a : W32) : W32 × Flags :=
  match W32.ex a with
  | .nan c => (nan32 c, fNV)
  | .inf _ => (0#32, {})
  | .fin m e =>
    if m = 0 then (inf32 false, {}) else
      let q := stickyDiv 1 m.natAbs (-e)
      round32 (if m < 0 then -(q.1 : Int) else (q.1 : Int)) q.2
def rsqrtZ (a : W32) : W32 × Flags :=
  match W32.ex a with
  | .nan c => (nan32 c, fNV)
  | .inf _ => (0#32, {})
  | .fin m e =>
    if m = 0 then (inf32 false, {}) else
      let odd := e % 2 != 0
      let m1 := if odd then 2 * m.natAbs else m.natAbs
      let e1 := if odd then e - 1 else e
      let k := 160 + Nat.log2 m1
      let n := 2 ^ (2 * k)
      let r := isqrt (n / m1)
      let v := 2 * r + (if r * r * m1 = n then 0 else 1)
      round32 (if m < 0 then -(v : Int) else (v : Int)) (-(e1 / 2) - (k : Int) - 1)

/-! ### ZM32 (R70-R72, R300) -/

/-- The exponent of one unit in the last place of a ZF16 pattern (R70). -/
def ulpExp (h : Nat) : Int := let e := (h / 512) % 64; if e = 0 then -40 else (e : Int) - 41

/-- The full value of a ZM32 word (R70). -/
def zm32Val (x : Nat) : Ex :=
  let h := x / 65536 % 65536
  match narrowVal fmtZF16 h with
  | .fin m e =>
    let s := finAdd m e (signed 16 x) (ulpExp h - 16)
    .fin s.1 s.2
  | y => y

/-- The ZM32 word of an exact value (R71, R300). -/
def zm32Of : Ex → W32 × Flags
  | .nan _ => (0x80000000#32, fNV)
  | .inf n => (if n then 0xFFFF8001#32 else 0x7FFF7FFF#32, fOV)
  | .fin m e =>
    let neg := decide (m < 0)
    -- largest magnitude: 0x7FFF with L = 32,767, that is (1023 * 2^16 + 32767) * 2^(22 - 16)
    if finLt (1023 * 65536 + 32767) 6 (m.natAbs : Int) e then (if neg then 0xFFFF8001#32 else 0x7FFF7FFF#32, fOV)
    else
      let p := (magRound fmtZF16 none m.natAbs e).1
      let h := withSign fmtZF16 neg p
      let hv := magValue fmtZF16 p
      let d := finAdd m e (if neg then hv.1 else -hv.1) hv.2
      let u := ulpExp h - 16
      let l := if u ≤ d.2 then d.1 * (pow2 (d.2 - u) : Int) else rneDivI d.1 (pow2 (u - d.2))
      let l := max (-32768) (min 32767 l)
      let w := h * 65536 + unsigned 16 l
      let exact := match zm32Val w with
        | .fin m2 e2 => let z := finAdd m e (-m2) e2; z.1 == 0
        | _ => false
      (BitVec.ofNat 32 w, { nx := !exact, uf := !exact && finLt (m.natAbs : Int) e 1 (-31) && m != 0 })

/-! ### Stochastic rounding noise (R78) -/

def mix64 (x : W64) : W64 :=
  let x := x ^^^ (x >>> 29)
  let x := x * 0xB4C15A2D9E63F0A7#64
  let x := x ^^^ (x >>> 32)
  let x := x * 0x8F273D61C5ABE04D#64
  x ^^^ (x >>> 29)

/-- The noise word of an element: step, tensor ID, linear index (R78). -/
def noise (step tensor index : Nat) : Nat :=
  let x := mix64 (BitVec.ofNat 64 (step % 2 ^ 32 * 2 ^ 32 + tensor % 2 ^ 32))
  let x := mix64 (x ^^^ BitVec.ofNat 64 (index % 2 ^ 48))
  (x >>> 32).toNat

/-! ### Conversion (R86-R93) -/

/-- The element types (Table TD-3). -/
inductive ETy where
  | zf8 | zg8 | zf16 | zg16 | za32 | zm32 | int4 | int8 | b32 | b16 | bf16 | u32 | u64 | byte | bitmap
deriving DecidableEq, Repr

/-- The `ETYPE` code (Table TD-3). -/
def etyOf : Nat → Option ETy
  | 0 => some .zf8 | 1 => some .zg8 | 2 => some .zf16 | 3 => some .zg16 | 4 => some .za32 | 5 => some .zm32
  | 6 => some .int4 | 7 => some .int8 | 8 => some .b32 | 9 => some .b16 | 10 => some .bf16 | 11 => some .u32
  | 12 => some .u64 | 13 => some .byte | 14 => some .bitmap | _ => none

/-- Element size in bits (Table TD-3). -/
def ETy.bits : ETy → Nat
  | .zf8 | .zg8 | .int8 | .byte => 8
  | .zf16 | .zg16 | .b16 | .bf16 => 16
  | .za32 | .zm32 | .b32 | .u32 => 32
  | .u64 => 64
  | .int4 => 4
  | .bitmap => 1

/-- Element size in bytes, 1 for the packed types. -/
def ETy.size (t : ETy) : Nat := (t.bits + 7) / 8

def ETy.isNarrow : ETy → Bool
  | .zf8 | .zg8 | .zf16 | .zg16 => true
  | _ => false

def ETy.isIeee : ETy → Bool
  | .b32 | .b16 | .bf16 => true
  | _ => false

def ETy.isInt : ETy → Bool
  | .int4 | .int8 => true
  | _ => false

/-- The format of a floating-point type (ZF16 for the types that have none). -/
def ETy.fmt : ETy → Fmt
  | .zf8 => fmtZF8 | .zg8 => fmtZG8 | .zf16 => fmtZF16 | .zg16 => fmtZG16
  | .za32 | .b32 => fmtZA32 | .b16 => fmtB16 | .bf16 => fmtBF16 | _ => fmtZF16

/-- The exact value of a pattern of a floating-point type, without its block scale (R65, R67, R70). -/
def ETy.val (t : ETy) (x : Nat) : Ex :=
  match t with
  | .zf8 => narrowVal fmtZF8 x | .zg8 => narrowVal fmtZG8 x
  | .zf16 => narrowVal fmtZF16 x | .zg16 => narrowVal fmtZG16 x
  | .za32 | .b32 => za32Val x
  | .zm32 => zm32Val x
  | .b16 => ieeeVal fmtB16 x | .bf16 => ieeeVal fmtBF16 x
  | .int4 => .fin (signed 4 x) 0 | .int8 => .fin (signed 8 x) 0
  | .u32 | .u64 | .byte | .bitmap => .fin (x : Int) 0

/-- The NaN pattern of a target for a cause (Table NF-10). -/
def nanPat (t : ETy) (c : Nat) : Nat :=
  match t with
  | .za32 | .b32 => 0x7FC00000 + c
  | .b16 => 0x7E00
  | .bf16 => 0x7FC0
  | _ => 2 ^ ((t.fmt).width - 1)

/-- Convert an exact value into a floating-point target (Table NF-10): `ovfNan` is the overflow option, `r` the noise word
of stochastic rounding (R79). -/
def convTo (t : ETy) (ovfNan : Bool) (r : Option Nat) : Ex → Nat × Flags
  | .nan c => (nanPat t c, fNV)
  | .inf n =>
    if t = .za32 ∨ t.isIeee then (withSign t.fmt n (t.fmt.top + 1), {})
    else if ovfNan then (nanPat t 1, { nv := true, ov := true })
    else (withSign t.fmt n t.fmt.top, fOV)
  | .fin m e =>
    let q := magRound t.fmt r m.natAbs e
    if t.fmt.top < q.1 then
      if ovfNan then (nanPat t 4, { nv := true, ov := true })
      else (withSign t.fmt (decide (m < 0)) t.fmt.top, fOV)
    else (withSign t.fmt (decide (m < 0)) q.1, { nx := q.2, uf := q.2 && belowNormal t.fmt m.natAbs e })

/-- An exact value converted into ZA32: one beyond range saturates (R76, R88). -/
def convZA32 (v : Ex) : W32 × Flags := let q := convTo .za32 false none v; (BitVec.ofNat 32 q.1, q.2)

/-- The scale of a block computed from the finite values of its elements (R74). -/
def blockScale (t : ETy) (xs : List Ex) : Int :=
  let mags := xs.filterMap (fun x => match x with | .fin m e => if m = 0 then none else some (m.natAbs, e) | _ => none)
  match mags with
  | [] => 0
  | a :: rest =>
    let mx := rest.foldl (fun b c => if finLt (b.1 : Int) b.2 (c.1 : Int) c.2 then c else b) a
    let ee : Int := (Nat.log2 mx.1 : Int) + mx.2
    let tt : Int := match t with | .zf8 => 7 | .zg8 => 15 | .zf16 => 31 | _ => 127
    let s0 := ee - tt
    let top := magValue t.fmt t.fmt.top
    let s := if finLt top.1 top.2 (mx.1 : Int) (mx.2 - s0) then s0 + 1 else s0
    max (-128) (min 127 s)

/-- `RNE(v / s)` for exact finite `v` and finite non-zero `s`. -/
def rneQuot (m1 e1 m2 e2 : Int) : Int :=
  let neg := (decide (m1 < 0)) != (decide (m2 < 0))
  let d := e1 - e2
  let q := if 0 ≤ d then (rneDiv (m1.natAbs * pow2 d) m2.natAbs) else (rneDiv m1.natAbs (m2.natAbs * pow2 (-d)))
  if neg then -(q.1 : Int) else (q.1 : Int)

/-- Is `v / s` an integer? -/
def quotExact (m1 e1 m2 e2 : Int) : Bool :=
  let d := e1 - e2
  if 0 ≤ d then (m1.natAbs * pow2 d) % m2.natAbs == 0 else m1.natAbs % (m2.natAbs * pow2 (-d)) == 0

/-- Quantise into INT4 or INT8 with scale pattern `s` (ZF16) and zero point `z` (R93): code and flags. The NV of a zero or
NaN scale is set once for the command, which the OR gives. -/
def quantTo (t : ETy) (s : Nat) (z : Int) (x : Ex) : Int × Flags :=
  let lo : Int := if t = .int4 then -8 else -128
  let hi : Int := if t = .int4 then 7 else 127
  let clamp (q : Int) (f : Flags) : Int × Flags :=
    (max lo (min hi q), if q < lo ∨ hi < q then f.or fOV else f)
  match narrowVal fmtZF16 s with
  | .fin ms es =>
    if ms = 0 then clamp z fNV
    else match x with
      | .nan _ => clamp z fNV
      | .inf n => (if n != decide (ms < 0) then lo else hi, fOV)
      | .fin m e =>
        if m = 0 then clamp z {}
        else
          let q := rneQuot m e ms es + z
          clamp q (if q < lo ∨ hi < q then {} else { nx := !quotExact m e ms es })
  | _ => clamp z fNV

/-- The value of an INT4 or INT8 code in scale mode (R92): `(q - z) * s`. -/
def intVal (s : Nat) (z q : Int) : Ex :=
  match narrowVal fmtZF16 s with
  | .fin m e => .fin ((q - z) * m) e
  | y => y

/-- The conversion pairs of Table NF-9. -/
def convPair (src dst : ETy) : Bool :=
  let flo (t : ETy) : Bool := t.isNarrow || t.isIeee || decide (t = .za32)
  if src.isInt then decide (dst = .zf8) || decide (dst = .zf16)
  else (flo src || decide (src = .zm32)) && (flo dst || dst.isInt)

end Sys2Proof.Machine
end

