-- ==== Sys2Proof/Machine/RegMap.lean ====
section
/-!
DEFINITION. The register map of BAR0 (18_registers, R468-R483): for every 8-byte offset its fields with their access
codes (Table SC-2), reset values and marks. One 8-byte word may hold two 4-byte entries (`DRAUGHT_BIAS`).
-/
namespace Sys2Proof.Machine

/-- Access codes (Table SC-2); reserved bits belong to no field. -/
inductive Acc where
  | ro | rw | rw1c | wo
deriving DecidableEq, Repr

/-- A register field with its marks (R469). -/
structure Field where
  hi : Nat
  lo : Nat
  acc : Acc
  rst : Nat := 0
  al : Bool := false
  l2 : Bool := false
  dis : Bool := false
  ch : Bool := false
deriving DecidableEq, Repr

def fRO (hi lo : Nat) (rst : Nat := 0) : Field := { hi, lo, acc := .ro, rst }
def fRW (hi lo : Nat) (rst : Nat := 0) : Field := { hi, lo, acc := .rw, rst }
def fC (i : Nat) : Field := { hi := i, lo := i, acc := .rw1c }
def fWO (hi lo : Nat) : Field := { hi, lo, acc := .wo }
def Field.AL (f : Field) : Field := { f with al := true }
def Field.L2 (f : Field) : Field := { f with l2 := true }
def Field.DIS (f : Field) : Field := { f with al := true, dis := true }
def Field.CH (f : Field) : Field := { f with ch := true }

/-! ### Offsets -/

def rSetupLock : Nat := 0x1000
def rResetCause : Nat := 0x1008
def rFrameNumber : Nat := 0x1010
def rStokePeriod : Nat := 0x1018
def rStokePeriodNext : Nat := 0x1020
def rStokeSwitchFrame : Nat := 0x1028
def rFrameCtl : Nat := 0x1030
def rOverrunRec : Nat := 0x1038
def rPowerCtl : Nat := 0x1040
def rZoneCtl : Nat := 0x1048
def rZoneThrottle : Nat := 0x1050
def rUpdMapErr : Nat := 0x1058
def rStepAbandon : Nat := 0x1060
def rIntegCtl : Nat := 0x1068
def rSeCtl : Nat := 0x1070
def rCfCtl : Nat := 0x1078
def rFirstErr : Nat := 0x1080
def rFaultCtl : Nat := 0x10C0
def rFaultVec : Nat := 0x10C8
def rFaultClear : Nat := 0x10D0
def rFaultRingBase : Nat := 0x10D8
def rFaultRingCfg : Nat := 0x10E0
def rFaultPi : Nat := 0x10E8
def rFaultCi : Nat := 0x10F0
def rSmokeLevel : Nat := 0x10F8
def rEmberKick : Nat := 0x1100
def rEmberStatus : Nat := 0x1108
def rDoorbellBase : Nat := 0x1110
def rRingStatusBase : Nat := 0x1118
def rStackWinBase : Nat := 0x1120
def rSnufferPolicy : Nat := 0x1128
def rSnufferStatus : Nat := 0x1130
def rZoneFreqTgt (z : Nat) : Nat := 0x1400 + 8 * z
def rZoneStatus (z : Nat) : Nat := 0x1540 + 8 * z
def rPhaseProfile (n : Nat) : Nat := 0x1700 + 0x40 * n
/-- Module counter i, in the order of the last row of Table RG-2. -/
def rModCount (i : Nat) : Nat := 0x1800 + 8 * i
def cDeferTime : Nat := rModCount 0
def cDeferPower : Nat := rModCount 1
def cOverrun : Nat := rModCount 2
def cOverrunThrottle : Nat := rModCount 3
def cTokensCarried : Nat := rModCount 4
def cTokensGranted : Nat := rModCount 5
def cTokensExpired : Nat := rModCount 6
def cCapHold : Nat := rModCount 7
def cSramCe : Nat := rModCount 8
def cSramUe : Nat := rModCount 9
def cScrubLate : Nat := rModCount 10
def cUcmdRetry : Nat := rModCount 11
def cSeReplay : Nat := rModCount 12
def cSeSelfReplay : Nat := rModCount 13
def cSeUnchecked : Nat := rModCount 14
def cReplayOverrun : Nat := rModCount 15
def cTestForced : Nat := rModCount 16
def cTestLate : Nat := rModCount 17
def cCfDup : Nat := rModCount 18
def cCfBad : Nat := rModCount 19
def cPoisonStale : Nat := rModCount 20
def cStokeMiss : Nat := rModCount 21
def cStokeConflict : Nat := rModCount 22
def cFaultCe : Nat := rModCount 23
def cFaultRp : Nat := rModCount 24
def cFaultLost : Nat := rModCount 25
def cDoorbellErr : Nat := rModCount 26
def cBarAccessErr : Nat := rModCount 27
def cWinDrop : Nat := rModCount 28
def cTallyWriteErr : Nat := rModCount 29
def cLockViolation : Nat := rModCount 30
def cSnuffer : Nat := rModCount 31

def rDom (d : Nat) : Nat := 0x00100000 + 0x1000 * d
def rDomCtl (d : Nat) : Nat := rDom d
def rPtRoot (d : Nat) : Nat := rDom d + 0x08
def rDescTblBase (d : Nat) : Nat := rDom d + 0x10
def rDescTblLen (d : Nat) : Nat := rDom d + 0x18
def rUpdMapBase (d : Nat) : Nat := rDom d + 0x20
def rTwinCtl (d : Nat) : Nat := rDom d + 0x28
def rSealGroup (d : Nat) : Nat := rDom d + 0x30
def rStepState (d : Nat) : Nat := rDom d + 0x38
def rStepNumber (d : Nat) : Nat := rDom d + 0x40
def rStepLastSealed (d : Nat) : Nat := rDom d + 0x48
def rStepResult (d : Nat) : Nat := rDom d + 0x50
def rDomFirstErr (d : Nat) : Nat := rDom d + 0x80
/-- Word `w` of the contribution-ledger entry `i` of a domain. -/
def rCledger (d i w : Nat) : Nat := rDom d + 0x100 + 0x50 * i + 8 * w
def rDomCount (d i : Nat) : Nat := rDom d + 0x400 + 8 * i
def cWrOffered (d : Nat) : Nat := rDomCount d 0
def cWrDone (d : Nat) : Nat := rDomCount d 1
def cOobWrite (d : Nat) : Nat := rDomCount d 2
def cXlateFault (d : Nat) : Nat := rDomCount d 3
def cPoisonRead (d : Nat) : Nat := rDomCount d 4
def cStepRefused (d : Nat) : Nat := rDomCount d 5
def cStepAbandon (d : Nat) : Nat := rDomCount d 6
def cStepDiscard (d : Nat) : Nat := rDomCount d 7
def cUpdArrived (d : Nat) : Nat := rDomCount d 8
def cUpdIssued (d : Nat) : Nat := rDomCount d 9
def cUpdDone (d : Nat) : Nat := rDomCount d 10
def cUpdFrozen (d : Nat) : Nat := rDomCount d 11
def cUpdNomap (d : Nat) : Nat := rDomCount d 12
def cJrnlPoison (d : Nat) : Nat := rDomCount d 13
def cInvertSing (d : Nat) : Nat := rDomCount d 14
def cCfStale (d : Nat) : Nat := rDomCount d 15
def cCfMismatch (d : Nat) : Nat := rDomCount d 16
def cSeUnresolved (d : Nat) : Nat := rDomCount d 17
def cDomFault (d : Nat) : Nat := rDomCount d 18

/-- Logical tile block: `t = 48 * die + tile`. -/
def rTileDomain (t : Nat) : Nat := 0x00200000 + 0x40 * t
def rTileMap (t : Nat) : Nat := rTileDomain t + 0x08
def rTileFlags (t : Nat) : Nat := rTileDomain t + 0x10
/-- Physical tile block: `j = 52 * die + physical tile`. -/
def rTileHealth (j : Nat) : Nat := 0x00202000 + 0x20 * j
def rTileEvent (j n : Nat) : Nat := rTileHealth j + 8 + 8 * n
def rStack (s : Nat) : Nat := 0x00220000 + 0x1000 * s
def rDieFailed (s : Nat) : Nat := rStack s
def rDieFailForce (s : Nat) : Nat := rStack s + 0x08
def rGratePairs (s : Nat) : Nat := rStack s + 0x10
def cRsErase (s : Nat) : Nat := rStack s + 0x18
def cRsUe (s : Nat) : Nat := rStack s + 0x20
def cXferRetry (s : Nat) : Nat := rStack s + 0x28
def cRsCe (s k : Nat) : Nat := rStack s + 0x80 + 8 * k
def rMemWeight (s p : Nat) : Nat := rStack s + 0x400 + 8 * p
def rCtx (c : Nat) : Nat := 0x00240000 + 0x1000 * c
def rRouteCtl (c : Nat) : Nat := rCtx c
def rDraughtBeta (c : Nat) : Nat := rCtx c + 0x08
def rDraughtBmax (c : Nat) : Nat := rCtx c + 0x10
def rRouteEpoch (c : Nat) : Nat := rCtx c + 0x18
def rEpochAdvance (c : Nat) : Nat := rCtx c + 0x20
def rAqCfg (c : Nat) : Nat := rCtx c + 0x28
def rDraughtStatus (c : Nat) : Nat := rCtx c + 0x30
def cRouteDrop (c : Nat) : Nat := rCtx c + 0x38
def cRouteStale (c : Nat) : Nat := rCtx c + 0x40
def cAqBad (c : Nat) : Nat := rCtx c + 0x48
def rBias (c e : Nat) : Nat := rCtx c + 0x400 + 8 * (e / 2)
def rPortCfg (p : Nat) : Nat := 0x00280000 + 0x100 * p
def rPortStatus (p : Nat) : Nat := rPortCfg p + 0x08
def cPortRetry (p : Nat) : Nat := rPortCfg p + 0x10
def cPortFecCe (p : Nat) : Nat := rPortCfg p + 0x18
def cPortFecUe (p : Nat) : Nat := rPortCfg p + 0x20
def rRangeCtl : Nat := 0x00281F00
def rRangeStatus : Nat := 0x00281F08
def rVcCfg (v : Nat) : Nat := 0x00281F40 + 8 * v
def rRouteMask (m : Nat) : Nat := 0x00282000 + 8 * m
def rCgroupCtl (k : Nat) : Nat := 0x00284000 + 0x40 * k
def rCgroupList (k : Nat) : Nat := rCgroupCtl k + 0x08
def rCgroupSeq (k : Nat) : Nat := rCgroupCtl k + 0x10
def rStreamCfg (n : Nat) : Nat := 0x00288000 + 0x20 * n
def rStreamEpoch (n : Nat) : Nat := rStreamCfg n + 0x08
def rStreamBytes (n : Nat) : Nat := rStreamCfg n + 0x10
def rRingCfg (r : Nat) : Nat := 0x00290000 + 0x40 * r
def rRingBase (r : Nat) : Nat := rRingCfg r + 0x08
def rRingState (r : Nat) : Nat := rRingCfg r + 0x10
def rCplCfg (c : Nat) : Nat := rRingCfg c + 0x18
def rCplBase (c : Nat) : Nat := rRingCfg c + 0x20
def rCplState (c : Nat) : Nat := rRingCfg c + 0x28
def rTallyOwner (b : Nat) : Nat := 0x00291000 + 8 * b
def rMbxCtl : Nat := 0x002A0000
def rMbxReq : Nat := 0x002A0100
def rMbxRsp : Nat := 0x002A0200
def rMsixTable : Nat := 0x03F00000
def rMsixPba : Nat := 0x03F01000

/-! ### Field tables -/

/-- Table CF-5: the reset credits of a virtual channel. -/
def vcCreditsReset : Nat → Nat
  | 0 => 256 | 1 => 3072 | 2 => 1536 | 3 => 2048 | 4 => 1536 | 5 => 1536 | 6 => 1024 | _ => 1280

/-- Table RG-2, by offset from the base of the module block. -/
def moduleFields (o : Nat) : List Field :=
  if o < 0x140 then
    match o with
    | 0x000 => [fRW 0 0, fC 1]
    | 0x008 => [fRO 2 0]
    | 0x010 => [fRO 47 0]
    | 0x018 => [fRO 12 0 250, fC 16]
    | 0x020 => [(fRW 12 0 250).AL]
    | 0x028 => [(fRW 47 0).AL]
    | 0x030 => [fRW 7 0 16, fRW 14 8 40, fRW 23 16, fRW 24 24]
    | 0x038 => [fRO 47 0, fRO 55 48, fRO 63 63]
    | 0x040 => [(fRW 11 0 2800).AL, (fRW 22 16 10).AL, (fRW 30 24 15).AL, fC 32, fRW 40 40, fC 41, fRO 59 48 600]
    | 0x048 => [fRW 6 0 100, fC 8]
    | 0x050 => [fRO 37 0]
    | 0x058 => [fRO 3 0, fRO 15 4, fRO 23 16, fC 24]
    | 0x060 => [(fWO 7 0).AL]
    | 0x068 => [fRW 15 0 1024, fRW 23 16 4, fRW 33 24 10]
    | 0x070 => [fRW 9 0 24, fRW 23 16 24, fRW 47 32 4000, fC 48]
    | 0x078 => [fRW 7 0 4, fRW 14 8 8, fC 16]
    | 0x0C0 => [(fRW 1 0).AL, fC 8]
    | 0x0C8 => [(fRW 7 0).AL.L2]
    | 0x0D0 => [(fWO 7 0).AL, (fWO 8 8).AL]
    | 0x0D8 => [(fRW 63 12).AL.L2]
    | 0x0E0 => [(fRW 3 0 4).AL.L2, (fRW 8 8).AL.L2]
    | 0x0E8 => [(fRO 31 0).L2]
    | 0x0F0 => [(fRW 31 0).AL.L2]
    | 0x0F8 => [(fRW 0 0 1).CH]
    | 0x100 => [(fWO 0 0).CH]
    | 0x108 => [fRO 1 0 3]
    | 0x110 => [(fRW 63 9).AL.L2]
    | 0x118 => [(fRW 63 9).AL.L2]
    | 0x120 => [(fRW 40 32).AL.L2]
    | 0x128 => [fRW 2 0 3, fRW 6 4 3, fRW 10 8 3, fRW 14 12 1, fRW 23 16 16]
    | 0x130 => [fRO 3 0, fRO 6 4]
    | _ => if 0x080 ≤ o ∧ o < 0x0C0 then [fRO 63 0] else []
  else if 0x400 ≤ o ∧ o < 0x400 + 8 * 38 then [(fRW 5 0 40).AL]
  else if 0x540 ≤ o ∧ o < 0x540 + 8 * 38 then [fRO 5 0 20, fRO 8 8, fRO 9 9, fRO 31 16, fRO 47 32]
  else if 0x700 ≤ o ∧ o < 0x800 then
    if (o - 0x700) % 0x40 = 0 then [(fRW 6 0 10).AL, (fRW 14 8 15).AL]
    else
      let z := (o - 0x700) % 0x40 - 8
      (List.range 8).filterMap (fun i => if z + i < 38 then some (fRW (8 * i + 5) (8 * i) 40).AL else none)
  else if 0x800 ≤ o ∧ o < 0x900 then
    if 0x8D0 ≤ o ∧ o < 0x8F0 then [(fRO 47 0).L2] else [fRO 47 0]
  else []

/-- Table RG-3, by offset from the base of a domain block. -/
def domainFields (o : Nat) : List Field :=
  match o with
  | 0x000 => [(fRW 0 0).AL, fRO 1 1, fRO 2 2, fC 8]
  | 0x008 => [(fRW 40 16).DIS]
  | 0x010 => [(fRW 51 6).DIS]
  | 0x018 => [(fRW 15 0).DIS]
  | 0x020 => [(fRW 51 9).DIS]
  | 0x028 => [(fRW 0 0).DIS]
  | 0x030 => [(fRW 5 0).DIS, (fRW 8 8).DIS]
  | 0x038 => [fRO 2 0]
  | 0x040 => [fRO 31 0]
  | 0x048 => [(fRW 31 0).DIS]
  | 0x050 => [fRO 63 0]
  | _ =>
    if 0x080 ≤ o ∧ o < 0x0C0 then [fRO 63 0]
    else if 0x100 ≤ o ∧ o < 0x100 + 4 * 0x50 then
      if (o - 0x100) % 0x50 = 0 then [fRO 31 0, fRO 32 32] else [fRO 47 0]
    else if 0x400 ≤ o ∧ o < 0x400 + 8 * 19 then [fRO 47 0]
    else []

/-- Table RG-4: logical and physical tile blocks. -/
def logicalTileFields (o : Nat) : List Field :=
  match o with
  | 0x00 => [(fRW 7 0).AL, fC 8]
  | 0x08 => [fRO 5 0, fRO 8 8]
  | 0x10 => [fC 0, fC 1, fC 2, fC 3]
  | _ => []
def physicalTileFields (o : Nat) : List Field :=
  match o with
  | 0x00 => [fRO 1 0, fRO 7 2, fRO 9 8]
  | _ => [fRO 47 0, fRO 48 48, fRO 63 63]

/-- Table RG-5, by offset from the base of a stack block. -/
def stackFields (o : Nat) : List Field :=
  match o with
  | 0x000 => [fRO 4 0, fRO 5 5, fRO 8 8]
  | 0x008 => [(fWO 4 0).CH]
  | 0x010 => [fRO 3 0, fRO 15 8]
  | 0x018 => [fRO 47 0]
  | 0x020 => [fRO 47 0]
  | 0x028 => [fRO 47 0]
  | _ =>
    if 0x080 ≤ o ∧ o < 0x080 + 8 * 18 then [fRO 47 0]
    else if 0x400 ≤ o ∧ o < 0x400 + 8 * 99 then [(fRW 3 0 1).AL]
    else []

/-- Table RG-6, by offset from the base of a routing context block. -/
def contextFields (o : Nat) : List Field :=
  match o with
  | 0x000 => [(fRW 0 0).AL, (fRW 15 8).DIS, (fRW 24 16).DIS, fC 31]
  | 0x008 => [(fRW 31 0).DIS]
  | 0x010 => [(fRW 31 0).DIS]
  | 0x018 => [fRO 15 0, fRO 16 16]
  | 0x020 => [(fWO 0 0).AL]
  | 0x028 => [(fRW 0 0).DIS, (fRW 6 1).DIS, (fRW 30 8).DIS, (fRW 38 31).DIS, (fRW 54 39).DIS]
  | 0x030 => [fC 0, fC 1]
  | 0x038 => [fRO 47 0]
  | 0x040 => [fRO 47 0]
  | 0x048 => [fRO 47 0]
  | _ => if 0x400 ≤ o ∧ o < 0x800 then [(fRW 31 0).DIS, (fRW 63 32).DIS] else []

/-- Table RG-7, by offset from 0x0028_0000. -/
def chaugFields (o : Nat) : List Field :=
  if o < 0x1200 then
    match o % 0x100 with
    | 0x00 => [fRW 0 0 1, fRW 1 1]
    | 0x08 => [fRO 1 0, fRO 9 2, fRO 10 10]
    | 0x10 => [fRO 47 0]
    | 0x18 => [fRO 47 0]
    | 0x20 => [fRO 47 0]
    | _ => []
  else if o = 0x1F00 then [fRW 9 0, fRW 14 10, fRW 15 15, fRW 16 16, fRW 41 24]
  else if o = 0x1F08 then [fRO 1 0, fRO 6 2, fRO 63 32]
  else if 0x1F40 ≤ o ∧ o < 0x1F80 then [fRW 13 0 (vcCreditsReset ((o - 0x1F40) / 8)), fRW 19 16 1]
  else if 0x2000 ≤ o ∧ o < 0x4000 then [(fRW 17 0).AL]
  else if 0x4000 ≤ o ∧ o < 0x5000 then
    match o % 0x40 with
    | 0x00 => [(fRW 7 0).DIS, (fRW 18 8).DIS, (fRW 24 24).AL, fC 25, (fRW 47 32).DIS]
    | 0x08 => [(fRW 51 2).DIS]
    | 0x10 => [fRO 15 0]
    | _ => []
  else if 0x8000 ≤ o ∧ o < 0x10000 then
    match o % 0x20 with
    | 0x00 => [(fRW 7 0).DIS, (fRW 8 8).DIS, (fRW 14 9).DIS, (fRW 15 15).DIS, (fRW 16 16).AL, (fRW 34 24).DIS,
        (fRW 43 36).DIS, fC 63]
    | 0x08 => [fRO 15 0]
    | 0x10 => [fRO 47 0]
    | _ => []
  else []

/-- Table RG-8, by offset from 0x0029_0000; every field L2. -/
def ringFields (o : Nat) : List Field :=
  if o < 0x1000 then
    match o % 0x40 with
    | 0x00 => [(fRW 0 0).AL.L2, (fRW 15 8).DIS.L2, (fRW 20 16 4).DIS.L2, (fRW 29 24).DIS.L2, (fRW 32 32).DIS.L2, (fC 63).L2]
    | 0x08 => [(fRW 63 12).DIS.L2]
    | 0x10 => [(fRO 1 0).L2]
    | 0x18 => [(fRW 0 0).AL.L2, (fRW 15 8).DIS.L2, (fRW 20 16 4).DIS.L2, (fRW 31 24).DIS.L2, (fRW 32 32).DIS.L2,
        (fRW 47 40 1).DIS.L2]
    | 0x20 => [(fRW 63 12).DIS.L2]
    | 0x28 => [(fRO 1 0).L2]
    | _ => []
  else if o < 0x1800 then [(fRW 7 0).AL.L2, (fRW 8 8).AL.L2, (fC 63).L2]
  else []

/-- Table RG-9, by offset from 0x002A_0000; every field AL and L2. -/
def mailboxFields (o : Nat) : List Field :=
  if o = 0 then
    [(fRW 8 0).AL.L2, (fWO 16 16).AL.L2, (fRO 17 17).L2, (fC 18).L2, (fC 19).L2, (fRO 40 32).L2, (fRW 55 48).AL.L2,
      (fRW 56 56).AL.L2]
  else if 0x100 ≤ o ∧ o < 0x200 then [(fRW 63 0).AL.L2]
  else if 0x200 ≤ o ∧ o < 0x300 then [(fRO 63 0).L2]
  else []

/-- Table RG-11: ID, base, count and stride of capability record `i` of the chain. -/
def capRecord : Nat → Option (Nat × Nat × Nat × Nat)
  | 0 => some (0x0001, 0x00001000, 1, 0) | 1 => some (0x0002, 0x00001400, 38, 8)
  | 2 => some (0x0003, 0x00100000, 256, 0x1000) | 3 => some (0x0004, 0x00200000, 96, 0x40)
  | 4 => some (0x0005, 0x00202000, 104, 0x20) | 5 => some (0x0006, 0x00220000, 24, 0x1000)
  | 6 => some (0x0007, 0x00240000, 64, 0x1000) | 7 => some (0x0008, 0x00280000, 18, 0x100)
  | 8 => some (0x0009, 0x00281F00, 1, 0) | 9 => some (0x000A, 0x00284000, 64, 0x40)
  | 10 => some (0x000B, 0x00288000, 1024, 0x20) | 11 => some (0x000C, 0x00290000, 64, 0x40)
  | 12 => some (0x000D, 0x00291000, 256, 8) | 13 => some (0x000E, 0x002A0000, 1, 0)
  | 14 => some (0x000F, 0x03F00000, 256, 16) | 15 => some (0x0100, 0, 0, 0) | 16 => some (0x0101, 0, 0, 0)
  | 17 => some (0x0102, 0, 0, 0) | 18 => some (0x0103, 0, 0, 0) | 19 => some (0x0104, 0, 0, 0)
  | 20 => some (0x0105, 0, 0, 0) | _ => none

/-- The 8-byte word of the capability chain at offset `o` (R482, R483): version 1, the next offset, base, count, stride. -/
def capFields (o : Nat) : List Field :=
  match capRecord (o / 16) with
  | none => []
  | some (i, b, n, st) =>
    if o % 16 = 0 then [fRO 63 0 (i + 0x10000 + (if o / 16 = 20 then 0 else (o / 16 + 1) * 16) * 2 ^ 32)]
    else [fRO 63 0 (b + n * 2 ^ 32 + st * 2 ^ 48)]

/-- The fields of the 8-byte word at BAR0 offset `off` (Table RG-1); none where no table names the offset (R468). The MSI-X table
and its pending bits, which Table RG-1 leaves to the PCIe specification without marks, are taken as AL and L2 (log entry 106). -/
def regFields (off : Nat) : List Field :=
  if off % 8 ≠ 0 then []
  else if off < 0x1000 then capFields off
  else if off < 0x2000 then moduleFields (off - 0x1000)
  else if 0x00100000 ≤ off ∧ off < 0x00200000 then domainFields (off % 0x1000)
  else if 0x00200000 ≤ off ∧ off < 0x00201800 then logicalTileFields (off % 0x40)
  else if 0x00202000 ≤ off ∧ off < 0x00202D00 then physicalTileFields (off % 0x20)
  else if 0x00220000 ≤ off ∧ off < 0x00238000 then stackFields (off % 0x1000)
  else if 0x00240000 ≤ off ∧ off < 0x00280000 then contextFields (off % 0x1000)
  else if 0x00280000 ≤ off ∧ off < 0x00290000 then chaugFields (off - 0x00280000)
  else if 0x00290000 ≤ off ∧ off < 0x00291800 then ringFields (off - 0x00290000)
  else if 0x002A0000 ≤ off ∧ off < 0x002A0300 then mailboxFields (off - 0x002A0000)
  else if 0x03F00000 ≤ off ∧ off < 0x03F01000 then
    if off % 16 = 0 then [(fRW 63 2).AL.L2] else [(fRW 31 0).AL.L2, (fRW 32 32 1).AL.L2]
  else if 0x03F01000 ≤ off ∧ off < 0x03F01020 then [(fRO 63 0).L2]
  else []

/-- The reset value of the word at an offset: what an unlisted entry of `State.regs` holds (R12, R471). -/
def regReset (off : Nat) : W64 :=
  (regFields off).foldl (fun w f => setFld w f.hi f.lo f.rst) 0#64

/-- A level-2 reset of one register word: only the fields marked L2 take their reset value (R471). -/
def regLevel2 (off : Nat) (w : W64) : W64 :=
  (regFields off).foldl (fun w f => if f.l2 then setFld w f.hi f.lo f.rst else w) w

/-- Ranged values of which the tables say what another value stores (R474, Table RG-2, R479): the nearest legal value. Bits [15:8] of
`AQ_CFG`, which Table RG-6 says must be 0, are held 0 (log entry 107). -/
def clampField (off : Nat) (f : Field) (v : Nat) : Nat :=
  let freq (v : Nat) := max 20 (min 44 v)
  if 0x1400 ≤ off ∧ off < 0x1400 + 8 * 38 then freq v
  else if off = rZoneCtl ∧ f.lo = 0 then max 85 (min 104 v)
  else if 0x1700 ≤ off ∧ off < 0x1800 then if (off - 0x1700) % 0x40 = 0 then min 50 v else freq v
  else if off = rPowerCtl ∧ (f.lo = 16 ∨ f.lo = 24) then min 50 v
  else if 0x00281F40 ≤ off ∧ off < 0x00281F80 ∧ f.lo = 16 then max 1 v
  else if 0x00240000 ≤ off ∧ off < 0x00280000 ∧ off % 0x1000 = 0x28 ∧ f.lo = 8 then v / 256 * 256
  else v

/-- What one field of a register takes from a write (R9, R10, R11, R469): `locked` while set-up is locked, `free` while
the instance is disabled (DIS), `chim` for Chimney's sideband port; `only` is the part of the word that is written, the rest keeps
its value (R473). The flag says that a locked field would have changed (R470). -/
def writeField (off : Nat) (locked free chim : Bool) (only new : W64) (a : W64 × Bool) (f : Field) : W64 × Bool :=
  let m := maskW f.hi f.lo
  match f.acc with
  | .ro | .wo => a
  | .rw1c => (a.1 &&& ~~~(new &&& only &&& m), a.2)
  | .rw =>
    if only &&& m = 0 then a
    else
      let v := clampField off f (fld ((new &&& only) ||| (a.1 &&& ~~~only)) f.hi f.lo)
      if f.ch then (if chim then (setFld a.1 f.hi f.lo v, a.2) else a)
      else if locked && !f.al then (a.1, a.2 || (!chim && fld a.1 f.hi f.lo != v))
      else if f.dis && !free then a
      else (setFld a.1 f.hi f.lo v, a.2)

/-- A write of a whole register word: every field in turn. -/
def writeWord (off : Nat) (locked free chim : Bool) (only old new : W64) : W64 × Bool :=
  (regFields off).foldl (writeField off locked free chim only new) (old, false)

/-- Is the register a locked register: does it hold a locked field (R470)? -/
def hasLocked (off : Nat) : Bool :=
  (regFields off).any (fun f => (f.acc == .rw || f.acc == .wo) && !f.al && !f.ch)

end Sys2Proof.Machine
end

