-- ==== Sys2Proof/Machine/State.lean ====
section
/-!
DEFINITION. The state of the module as plain data: the BAR0 registers in one sparse table by offset, and, beside it, all
that the manual gives the module without a register: memory, queues, running commands, frame logic, domains, routing
contexts, fabric, update path, faults, Chimney, power. INVENTORY.md lists every piece with its rule and reset value.
-/
namespace Sys2Proof.Machine

/-- Why a step stops without a next state. -/
inductive Fault where
  /-- Raised by no command: the manual gives every command of the table an effect. Kept so that the type says what a
  stop would be (safe). -/
  | unreachable
deriving DecidableEq, Repr

/-- Why a command has no meaning. -/
inductive Refusal where
  /-- Raised by `exec` for a command that has no meaning yet (safe). -/
  | notModelled (mnemonic : String)
deriving DecidableEq, Repr

/-! ### Memory -/

/-- Memory (chapters 8 and 9). Stack bytes are keyed by DPA, tile-store bytes by `6 MiB * tile + offset` with
`tile = 48 * die + logical tile`; a byte not listed is 0 (R224, R225, R245). -/
structure Mem where
  stack : List Host.Cell := []
  /-- Valid-map words (R224), keyed by `2^22 * stack + word`; reset 0. -/
  valid : Tab W64 := []
  /-- Valid-map words with `POISON` 1 (R253): their bits are poison bits of their blocks. -/
  vpoison : Tab Bool := []
  /-- Errors in stored symbols (R236), keyed by `18 * (DPA div 16) + die`. -/
  serr : Tab Byte := []
  tile : List Host.Cell := []
  /-- POISON of a tile-store word (R244), keyed by `786,432 * tile + offset div 8`. -/
  tpoison : Tab Bool := []
  /-- Errors in the 80 stored bits of a tile-store word, keyed in the same way. -/
  terr : Tab (BitVec 80) := []
  /-- Write-back queue of a bank (R246), keyed by `32 * tile + bank`: the words waiting. -/
  wbq : Tab (List Nat) := []
deriving DecidableEq, Repr

/-! ### Descriptors and commands -/

/-- A tensor descriptor (Table TD-1), decoded. -/
structure Desc where
  base : Nat
  space : Nat
  dom : Nat
  aux : Nat
  ety : Nat
  rank : Nat
  layout : Nat
  trans : Bool
  bscaled : Bool
  bshape : Bool
  ovfNan : Bool
  expMode : Bool
  expTgt : Bool
  tensor : Nat
  fill : Nat
  padLo0 : Nat
  padHi0 : Nat
  padLo1 : Nat
  padHi1 : Nat
  n0 : Nat
  n1 : Nat
  n2 : Nat
  n3 : Nat
  s0 : Int
  s1 : Int
  s2 : Int
  s3 : Int
  /-- The reserved bits of Table TD-1 are 0. -/
  rsvd0 : Bool
deriving DecidableEq, Repr

/-- One entry of a translation snapshot (R220): a present leaf, or an absent range. -/
structure Page where
  va : Nat
  size : Nat
  present : Bool
  write : Bool
  host : Bool
  addr : Nat
deriving DecidableEq, Repr

/-- A dispatched command (R395): its number, ring, entry index, domain, completion ring and eight words. -/
structure Cmd where
  id : Nat
  ring : Nat
  idx : Nat
  dom : Nat
  cpl : Nat
  words : List W64
deriving DecidableEq, Repr

/-- The continuation state of an SMUL (R137): what its kept executions have done so far. -/
structure Cont where
  /-- Rows completed and kept. -/
  rows : Nat := 0
  flags : Flags := {}
  pairs : Nat := 0
  segs : Nat := 0
  conts : Nat := 0
  /-- Poisoned words read, and where the first was met. -/
  poison : Nat := 0
  pAt : Nat × Nat × Nat := (0, 0, 0)
  /-- A poisoned word of W or of a bitmap has been met: every output is written poisoned (Table DI-4). -/
  bad : Bool := false
deriving DecidableEq, Repr

/-- A command in a queue, with what its unit has read for it at the head (R184, R220). -/
structure QEnt where
  cmd : Cmd
  loaded : Bool := false
  descs : List (Option Desc) := []
  pages : List Page := []
  /-- Stokes since it reached the head of its queue (R56, R410). -/
  stokes : Nat := 0
  /-- Deferred in this frame with cause TIME, POWER (R36: counted once an instruction and frame). -/
  deferT : Bool := false
  deferP : Bool := false
  /-- The decode deadline has passed since it came to the head (R118). -/
  ready : Bool := false
  /-- The FD DMA engine that it took at the head of its queue (R393). -/
  eng : Option Nat := none
  cont : Option Cont := none
deriving DecidableEq, Repr

/-- A queue (R390) and its frame-mark status (R56). -/
structure Queue where
  ents : List QEnt := []
  markFrame : Nat := 0
  markId : Nat := 0
deriving DecidableEq, Repr

/-- Where a run stands. -/
inductive RunSt where
  /-- Admitted; it has not executed. -/
  | admitted
  /-- Executed; its checks passed. COMMAND_COMPLETE ends it. -/
  | executed
  /-- Executed with a detection; REPLAY comes next (R368). -/
  | detected
  /-- A standing collective, or a STEP_SEAL that waits for its seal stoke. -/
  | standing
deriving DecidableEq, Repr

/-- Units (R390-R393): a Hearth array, a Skipper engine, a tile's DMA engine, an FD DMA engine, the update sequencer, the
network interface, the frame scheduler; the tile sequencer serves the commands of a tile queue that no unit runs. -/
inductive Unit' where
  | seq (t : Nat)
  | hearth (t : Nat)
  | skipper (t : Nat)
  | tdma (t : Nat)
  | fdma (n : Nat)
  | updater
  | netif
  | sched
deriving DecidableEq, Repr

/-- The outcome of an execution as its completion record will tell it (Table HR-8). -/
structure Res where
  status : Nat := 0
  cause : Nat := 0
  flags : Flags := {}
  aliased : Bool := false
  result : W64 := 0
  offered : Nat := 0
  done : Nat := 0
  dropped : Nat := 0
  /-- Poisoned words read (R251), and where the first one was met: address, its kind, access (Table FC-3). -/
  poison : Nat := 0
  pAt : Nat × Nat × Nat := (0, 0, 0)
deriving DecidableEq, Repr

/-- An answer block on its way or in the queue of a context: its slot, the physical source tile, the number of the
transfer that carries it, poison (R169, R170, R249). -/
structure Ans where
  slot : Nat
  src : Nat
  id : Nat
  poison : Bool
deriving DecidableEq, Repr

/-- A command admitted and not completed, with what the Cocoon retains for it (R274). -/
structure Run where
  cmd : Cmd
  q : Nat
  unit : Unit'
  st : RunSt := .admitted
  descs : List (Option Desc) := []
  pages : List Page := []
  /-- Its deferrals of this frame have been counted (R36): time, power. -/
  deferT : Bool := false
  deferP : Bool := false
  /-- Frame number and frame time of admission. -/
  frame : Nat := 0
  ftime : Nat := 0
  /-- Budget time as a fraction of nanoseconds (R35). -/
  budNum : Nat := 0
  budDen : Nat := 1
  tokens : Nat := 0
  zones : Nat := 0
  /-- Stokes crossed (R42); a replay in course; stokes crossed by the replay. -/
  crossed : Nat := 0
  throttled : Bool := false
  replaying : Bool := false
  res : Res := {}
  /-- What the Cocoon retains of the values that the execution overwrites, in accumulate mode and of a COMBINE's Y (R178, R274):
  place, byte, poison, in ascending place. An input that is only read stays where it is (R275). -/
  kept : List (Nat × Byte × Bool) := []
  /-- A COMBINE has read its header (R172). -/
  setUp : Bool := false
  /-- Step number for the noise function (R78, R79), as it stood at admission. -/
  stepNo : Nat := 0
  /-- The physical tile on which the replay in course runs (R368). -/
  replayTile : Option Nat := none
  /-- Bytes taken from receive streams so far, in order: stream, byte, poison (R359). -/
  taken : List (Nat × Byte × Bool) := []
  /-- Answer blocks a COMBINE has taken, in order (R178): block, bytes, and whether its credit has returned. -/
  blocks : List (Ans × List Byte × Bool) := []
  digest : Nat := 0
  digestTwin : Nat := 0
  /-- Detections so far, the physical tiles that detected (first first), and the replays made (Table SE-2). -/
  detects : Nat := 0
  detTiles : List Nat := []
  replays : Nat := 0
  replayed : Bool := false
  /-- Both twin executions passed with different digests (R374). -/
  twinDiffer : Bool := false
  /-- What the Cocoon snapshots beside the operands: for a decode HMUL n and the ring slots (R119), for ROUTE and COMBINE
  the context, epoch and biases (R165, R178), for SMUL the continuation. -/
  snap : List Nat := []
  cont : Option Cont := none
  /-- The Cocoon entry is uncorrectable (Table DI-5). -/
  badCocoon : Bool := false
  /-- Frames without a Chaug arrival or credit (R362); an arrival in this frame. -/
  idle : Nat := 0
  arrived : Bool := false
deriving DecidableEq, Repr

/-- A command ring beside its registers (R394-R403). -/
structure Ring where
  ci : Nat := 0
  /-- Producer index in force. -/
  pi : Nat := 0
  /-- Entries read into the fetch buffer; the first has index `ci`. Each with the EP mark of its completion. -/
  buf : List (List W64 × Bool) := []
  /-- Entries asked for in a read that has not returned; 0 for none. -/
  asked : Nat := 0
deriving DecidableEq, Repr

/-- A completion ring beside its registers: producer and consumer index (R394). -/
structure Cpl where
  pi : Nat := 0
  ci : Nat := 0
deriving DecidableEq, Repr

/-- Queues, running commands, rings, tallies. -/
structure Pipe where
  nextId : Nat := 0
  /-- Queues 0-95 (tile queues) and 96-159 (ring queues). -/
  queues : Tab Queue := []
  runs : List Run := []
  rings : Tab Ring := []
  cpls : Tab Cpl := []
  /-- Tally counters (R408), 48 bits; reset 0. -/
  tally : Tab (BitVec 48) := []
  /-- Time at which the Hearth array of a physical tile last finished, with 1 added; 0 for never (R52). -/
  arrayBusy : Tab Nat := []
  /-- Numbers of WAITs that a signal has released at the heads of their queues (R409). -/
  met : List Nat := []
deriving DecidableEq, Repr

/-! ### Frame logic and Damper -/

/-- The Damper of the frame (R43-R51). -/
structure Damper where
  pool : Nat := 0
  link : Nat := 0
  grate : Nat := 0
  general : Nat := 0
  /-- Carry charges deducted this frame, tokens granted this frame, remainder and replay shortfalls due next stoke. -/
  carried : Nat := 0
  granted : Nat := 0
  due : Nat := 0
  /-- Charges that fell due since the stoke and at it: the ledger state of the remainder (R43). -/
  charged : Nat := 0
  /-- Carry charges exceeded the pool: no grant but to replays (R43). -/
  shut : Bool := false
  /-- Grants held because of input power (R51). -/
  hold : Bool := false
  /-- The 50 µs average was over the cap at the last sample. -/
  overCap : Bool := false
  /-- Input-power samples, newest first, at most 50. -/
  samples : List Nat := []
deriving DecidableEq, Repr

/-- Frame logic (chapter 2) beside the registers. -/
structure Frame where
  locked : Bool := false
  /-- `now` at the last stoke: the frame-time counter is `now - stokeAt` (R33). -/
  stokeAt : Nat := 0
  guard : Bool := false
  released : Bool := false
  /-- Requested period change: period, frame (R32). -/
  switch : Option (Nat × Nat) := none
  /-- Legacy gate mode in force; a write waits for its stoke (R54). -/
  legacy : Bool := false
  gateWaits : Bool := false
  /-- POWER_CAP in force (R46). -/
  cap : Nat := 2800
  damper : Damper := {}
  /-- Zones that an emergency throttle lowered and that return by steps (R63). -/
  throttled : List Nat := []
  /-- Memory weights in force, keyed by `128 * stack + port` (R230); default 1. -/
  weights : Tab Nat := []
  /-- Latest samples of the die sites 0-93 in steps of 0.125 degrees (R435). -/
  sites : Tab Int := []
deriving DecidableEq, Repr

/-! ### Faults, host interface -/

/-- Fault collection beside the registers (chapter 15). -/
structure Flt where
  /-- `SEQ` of the next record: 1 after reset (Table SU-2). -/
  seq : Nat := 1
  /-- A Fatal fault stands (R423). -/
  fatal : Bool := false
  /-- Corrected and Replayed sources with a record in this frame; folded events by source; by domain (R421, R425). -/
  reported : List Nat := []
  folded : Tab Nat := []
  suppressed : Tab Nat := []
  /-- End of the SMOKE_N pulse in `now`, while one lasts; the pin's level (R428). -/
  pulse : Option Nat := none
  smoke : Bool := true
  /-- EMBER: level, last kick, time of the last toggle (R429). -/
  ember : Bool := false
  lastKick : Option Nat := none
  emberAt : Nat := 0
  /-- FAULT_CLEAR held pending: domain, RESUME (R422). -/
  clears : List (Nat × Bool) := []
  /-- Ledgers that mismatched in a FAULTED domain: (domain, 16 x instance + ledger) (R431). -/
  badLedgers : List (Nat × Nat) := []
deriving DecidableEq, Repr

/-- A posted write of the module to host memory or a message it sent, in order of issue (R405, R406, R414, R426). -/
inductive Post where
  | completion (addr : Nat) (rec : List W64)
  | fault (addr : Nat) (rec : List W64)
  | status (addr : Nat) (block : List W64)
  /-- Data of a transfer: PCIe address, bytes, EP. -/
  | data (addr : Nat) (bytes : List Byte) (ep : Bool)
  | msix (vector : Nat) (addr : W64) (data : W64)
  | doorbellRead (addr : Nat)
  | ringRead (r addr n : Nat)
  /-- A completion: of a window read (Unsupported Request), of a configuration request. -/
  | cfg (crs : Bool) (v : W32)
  | unsupported (off : Nat)
deriving DecidableEq, Repr

/-- Ordering attributes (Table HR-1): Relaxed Ordering on data writes of transfers alone, No Snoop on nothing. -/
def Post.relaxed : Post → Bool
  | .data _ _ _ => true
  | _ => false
def Post.noSnoop (_ : Post) : Bool := false

/-- The host interface beside the registers (chapter 14). -/
structure HostIf where
  posts : List Post := []
  /-- A read of the doorbell block has not returned (R400). -/
  dbAsked : Bool := false
  /-- When it was issued. -/
  dbAt : Nat := 0
  /-- Held low halves of 4-byte register writes: (Chimney?, offset, value) (R473). -/
  half : List (Bool × Nat × Nat) := []
  /-- Time of a vector's last message; vectors whose pending bit waits for the end of a gap (R414). -/
  lastMsg : Tab Nat := []
  /-- Mode of the ring whose record set the vector's pending bit: IMMEDIATE (R414). -/
  immediate : Tab Bool := []
  gap : Tab Nat := []
  /-- Window writes that no command sees yet, oldest first: DPA, bytes (R389; log entry 74). -/
  win : List (Nat × List Byte) := []
  /-- How many of them, from the oldest on, a read of BAR0 has completed after (R389). -/
  winRead : Nat := 0
deriving DecidableEq, Repr

/-- The open step of a domain (R266-R278). -/
structure StepSt where
  number : Nat
  direct : Bool
  /-- Direct mode: the applied-block map's descriptor and its snapshot (R267). -/
  amap : Option (Desc × List Page) := none
  /-- STEP_POISON: cause and raising member of the first raise (R276, R273). -/
  poison : Option (Nat × Nat) := none
  /-- Record of the last SCHEDULE, and the record latched when STEP_SEAL reached the head (R295): 32 slots. -/
  sched : Option (List W32) := none
  latched : Option (List W32) := none
  /-- Applied blocks by parameter-map position, newest first (R302). -/
  applied : List Nat := []
  /-- Flags of the step's micro-commands (R306). -/
  flags : Flags := {}
  /-- Number of the standing STEP_SEAL. -/
  sealId : Option Nat := none
  /-- READY reported, and the frame of the seal stoke (R271). -/
  ready : Bool := false
  sealAt : Option Nat := none
  /-- Frames that its READY has waited for an UP port or a credit (R333, R362), and whether a credit came in this frame. -/
  waits : Nat := 0
  heard : Bool := false
  /-- The step ends by abandonment (R278). -/
  abandoned : Bool := false
  /-- Journal entries of the step, newest first: stack, offset, region, block, master planes, state planes (R307). -/
  journal : List (Nat × Nat × Nat × Nat × Bool × Nat) := []
  /-- Rollback in progress; a poisoned entry was met (R310, R311). -/
  rolling : Bool := false
  jrnlBad : Bool := false
deriving DecidableEq, Repr

/-- A domain beside its registers (chapters 2, 10, 11). -/
structure Dom where
  /-- Phase recorded and phase waiting for its stoke: code, user tag (R55). -/
  phase : Nat := 0
  userTag : Nat := 0
  phaseNext : Option (Nat × Nat) := none
  step : Option StepSt := none
  /-- POISON packets held for a step not open yet: step, cause, member (R343). -/
  held : List (Nat × Nat × Nat) := []
  /-- Journal generation, write pointers and write buffers by stack (R307). -/
  jgen : Nat := 0
  jptr : Tab Nat := []
  jbuf : Tab (List Byte) := []
  /-- A word that holds a write pointer was uncorrectable: the pointers are rebuilt before a rollback (R312). -/
  jlost : Bool := false
deriving DecidableEq, Repr

/-- A routing context beside its registers (Table ER-1, R169-R182). -/
structure Ctx where
  /-- Enabled at some time since reset (R159). -/
  everOn : Bool := false
  staged : Tab W32 := []
  load : Tab Nat := []
  /-- Blocks in the queue, oldest arrival first; blocks written and not yet arrived. -/
  queue : List Ans := []
  inflight : List Ans := []
  /-- Free credits; credits held by admitted transfers: transfer, epoch of its header, slot. -/
  credits : Nat := 0
  held : List (Nat × Nat × Nat) := []
  /-- Blocks counted stale (R177), for the COMBINE that runs. -/
  stale : Nat := 0
  /-- Epoch advances that wait for a credit (R182). -/
  pend : Nat := 0
deriving DecidableEq, Repr

/-- A region of a parameter map (Table UE-2). -/
structure Region where
  g0 : Nat
  nb : Nat
  kind : Nat
  states : Nat
  stack : Nat
  recipe : Nat
  matN : Nat
  tensor : Nat
  highVa : Nat
  residVa : Nat
  stateVa : Nat
  scaleVa : Nat
deriving DecidableEq, Repr

/-- A recipe (Table UE-7): the operation words that are executed, and the header. -/
structure Recipe where
  ops : List Nat
  stoch : Bool
  matrix : Bool
  energy : Nat
  ks : List W32
  /-- The reserved fields and words are 0. -/
  rsvd0 : Bool
  /-- `OPS` lies in 1 - 64. -/
  count : Nat
deriving DecidableEq, Repr

/-- The copy of a domain's parameter map (R283). -/
structure PMap where
  regions : List Region
  recipes : List Recipe
  frozenVa : Nat
  jrnl : List (Nat × Nat)
  pages : List Page
deriving DecidableEq, Repr

/-- A reduced gradient block (R289): 32 patterns of ZG8 or ZG16, a scale byte, its marks. -/
structure GBlk where
  dom : Nat
  step : Nat
  g : Nat
  wide : Bool
  elems : List Nat
  scale : Int
  ofMark : Bool
  nan : Bool
  poison : Bool
  rho : W32
deriving DecidableEq, Repr

/-- An update micro-command (Table UE-4, step 5). -/
structure Ucmd where
  dom : Nat
  step : Nat
  g : Nat
  region : Nat
  recipe : Nat
  sched : List W32
  blk : GBlk
  gen : Nat
  direct : Bool
  /-- Pair mismatches so far (R303). -/
  tries : Nat := 0
deriving DecidableEq, Repr

/-- A request in the FIFO of a Grate unit (R234, Table MS-6): a micro-command; the clears or the recipe run of the command with a number;
the rollback of a domain; a patrol-scrub read. -/
inductive GReq where
  | micro (u : Ucmd)
  | job (id : Nat)
  | roll (d : Nat)
  | scrub
deriving DecidableEq, Repr

/-- A staged record that waits for the feed queue (R352): its domain and step, its VA and the translations through which it was
written. -/
structure StagedRec where
  dom : Nat
  step : Nat
  va : Int
  pages : List Page
deriving DecidableEq, Repr

/-- Update sequencer and Grate units (chapter 11). -/
structure Upd where
  maps : Tab (Option PMap) := []
  /-- The feed queue: blocks that the update sequencer has not taken yet, oldest first (R289, R352). -/
  feed : List GBlk := []
  /-- Free credits of the feed queue (R352, R364). -/
  feedFree : Nat := 4096
  /-- Reduced blocks that wait for a credit, oldest first: their records lie in the staging area alone. -/
  staged : List StagedRec := []
  /-- Micro-commands built that wait for tokens (R49). -/
  batch : List Ucmd := []
  /-- FIFO of a stack's Grate unit, oldest first (R234). -/
  grate : Tab (List GReq) := []
  /-- Times of the events of a pipe pair, newest first, keyed by 8 x stack + pair (R376). -/
  pairEvents : Tab (List Nat) := []
deriving DecidableEq, Repr

/-- Packet types (Table CF-6). -/
inductive PKind where
  | leaf | gather | stream | window | grant | poison | ready
deriving DecidableEq, Repr

/-- A packet (Tables CF-6, CF-8): header fields, type-specific fields in table order, payload units as bytes. -/
structure Pkt where
  kind : PKind
  vc : Nat
  src : Nat
  dst : Nat
  epoch : Nat := 0
  pmask : Nat := 0
  f : List Nat := []
  data : List Byte := []
deriving DecidableEq, Repr

/-- A port and its link (R322-R327, R331). -/
structure Port where
  /-- Receiver: next `SEQ` expected, NAK owed, NAKs for the same flit, packets in the buffer (oldest first). -/
  rxSeq : Nat := 0
  nakOwed : Bool := false
  rx : List Pkt := []
  /-- How many of them came before the link last went down: their units return no credit. -/
  oldRx : Nat := 0
  /-- Units returned by channel since the port came up, and channels whose change is unreported, longest waiting first. -/
  ret : List Nat := [0, 0, 0, 0, 0, 0, 0, 0]
  unreported : List Nat := []
  /-- Sender: next `SEQ`, last acknowledged, unacknowledged flits (`SEQ`, payload packets) oldest first. -/
  txSeq : Nat := 0
  acked : Nat := 4095
  retry : List (Nat × List Pkt) := []
  naks : Nat := 0
  /-- Partner's credits by channel as advertised, credits available, last total seen. -/
  credits : List Nat := [0, 0, 0, 0, 0, 0, 0, 0]
  avail : List Nat := [0, 0, 0, 0, 0, 0, 0, 0]
  /-- Units sent and not yet returned, by channel. -/
  owed : List Nat := [0, 0, 0, 0, 0, 0, 0, 0]
  /-- An acknowledgement has not been sent yet. -/
  ackOwed : Bool := false
  seen : List Nat := [0, 0, 0, 0, 0, 0, 0, 0]
  /-- Receiver: credits advertised by channel at training, and free units of its buffer (R326). -/
  adv : List Nat := [0, 0, 0, 0, 0, 0, 0, 0]
  rxFree : List Int := [0, 0, 0, 0, 0, 0, 0, 0]
  /-- A credit error of a channel waits for the ledger audit (R325). -/
  creditErr : Option Nat := none
  /-- Packets that wait for a flit, oldest first; weighted round-robin: channel served last and sends left to it. -/
  sendq : List Pkt := []
  wrr : Nat × Nat := (6, 0)
  /-- Time at which training began. -/
  since : Nat := 0
deriving DecidableEq, Repr

/-- A leaf in the reduction store: elements, scale, poison. -/
structure LeafRec where
  elems : List Nat
  scale : Int
  poison : Bool
deriving DecidableEq, Repr

/-- A standing collective (R335, R347-R358). -/
structure Coll where
  id : Nat
  op : Nat
  group : Nat
  seq : Nat
  dom : Nat
  epoch : Nat
  members : List Nat
  rank : Nat
  isStep : Bool
  stepNo : Nat
  noRescale : Bool
  lateSlots : Nat
  root : Nat
  toStream : Bool
  stream : Nat
  gbase : Nat
  /-- Elements of the whole tensor, `ETYPE` code of its leaves, blocks in a shard. -/
  n : Nat
  ety : Nat
  q : Nat
  /-- Frame that begins at the deadline (R354). -/
  deadline : Nat
  /-- By rank: next block of the rank's shard to send, `LIMIT` last received, next own unit to send. -/
  next : List Nat
  limit : List Nat
  gnext : List Nat
  /-- `LIMIT` granted to the contributors. -/
  granted : Nat := 0
  /-- Leaves present, keyed by `1024 * block in shard + rank`; blocks closed; late ranks; leaves missing. -/
  leaves : Tab (Option LeafRec) := []
  closed : List Nat := []
  late : List Nat := []
  missing : Nat := 0
  /-- The deadline has passed. -/
  expired : Bool := false
  /-- Destination units received: `1024 * unit + rank`. -/
  got : List Nat := []
  /-- Sum mismatches that its blocks meet (R367). -/
  mism : List Nat := []
  /-- By rank: burst and epoch of a stream send, learnt from GRANT. For a receiver: the burst that it awaits. -/
  grants : List (Option (Nat × Nat)) := []
  await : Nat := 0
deriving DecidableEq, Repr

/-- A receive stream beside its registers (R359-R363). -/
structure Stream where
  /-- Open burst; stream position of its first byte. -/
  burst : Nat := 0
  base : Nat := 0
  /-- Payload units of the open burst that have come. -/
  got : List Nat := []
  /-- Total length of the open burst, once its last packet has come. -/
  total : Option Nat := none
  /-- Bytes consumed, and `LIMIT` granted in the open burst; the member that sends. -/
  consumed : Nat := 0
  limit : Nat := 0
  /-- Ring bytes neither held nor granted. -/
  free : Nat := 0
  sender : Nat := 0
  /-- A BROADCAST opened it: its sender is known. -/
  known : Bool := false
deriving DecidableEq, Repr

/-- Late-window state of a domain's sealed or refused steps (R356-R358): a contribution-ledger entry that is still open. -/
structure LateWin where
  dom : Nat
  step : Nat
  group : Nat
  seq : Nat
  lateSlots : Nat
  /-- Ranks late, and (block, rank) pairs still missing. -/
  absent : List (Nat × Nat)
  /-- Held slots: (block, slot, rank, leaf). -/
  held : List (Nat × Nat × Nat × LeafRec)
  /-- Held leaves that a reduction of the next step has added: (block, rank). -/
  used : List (Nat × Nat) := []
  va : Int
  pages : List Page
  q : Nat
  ety : Nat
deriving DecidableEq, Repr

/-- The joining stoke (R464): the master's frame that begins there, its period, the time, and the change of period that the marker
announced: new period (0 none) and frame. -/
structure Joining where
  frame : Nat
  period : Nat
  at' : Nat
  next : Nat := 0
  switch : Nat := 0
deriving DecidableEq, Repr

/-- The Chaug fabric (chapter 12). -/
structure Fab where
  ports : Tab Port := []
  /-- Flits sent, oldest first: (port, 256 bytes). -/
  wire : List (Nat × List Byte) := []
  /-- Packets whose route has no UP port. -/
  waiting : List Pkt := []
  /-- Member lists of the enabled groups. -/
  groups : Tab (List Nat) := []
  colls : List Coll := []
  /-- Free leaf slots of the reduction store (R353). -/
  storeFree : Int := 262144
  streams : Tab Stream := []
  lates : List LateWin := []
  /-- READY senders on the frame master: (domain, step, member); domains of the next marker's `SEAL_MAP`. -/
  readies : List (Nat × Nat × Nat) := []
  /-- Steps ended by abandonment whose READY leaves at the next stoke (R271, R344). -/
  readyDue : List (Nat × Nat) := []
  sealMap : List Nat := []
  /-- Consecutive held stokes (R340). -/
  heldStokes : Nat := 0
  /-- JOINING: the joining stoke, once a marker has come (R464). -/
  joining : Option Joining := none
  /-- The marker of the next stoke has been received. -/
  marked : Bool := false
  /-- Time of the echo request in flight; stoke markers received and not yet taken: port,
  time of arrival, payload. -/
  echoAt : Option Nat := none
  markers : List (Nat × Nat × List Byte) := []
  echoes : List Nat := []
  replies : List (Nat × Nat) := []
  /-- Frames since the last delay measurement. -/
  sinceEcho : Nat := 0
  /-- Identity locked at set-up (R465). -/
  lockedAs : Nat × Nat := (0, 0)
  /-- WINDOW and GRANT limits that came before their collective stands here: key (group, or 64 + stream), sequence or burst,
  epoch of a GRANT or port that brought a WINDOW, sender, limit. -/
  early : List (Nat × Nat × Nat × Nat × Nat) := []
  /-- Reductions standing at the latest stoke (R353). -/
  standing : Nat := 0
  /-- Last burst sent whole, by stream and receiver: stream, member, epoch, burst (R360). -/
  sent : List (Nat × Nat × Nat × Nat) := []
  /-- Blocks closed by domain and step (R358). -/
  closedBlks : List ((Nat × Nat) × Nat) := []
deriving DecidableEq, Repr

/-- Tiles beside the registers (chapters 8, 13). -/
structure Tiles where
  /-- Logical tiles whose store is being zeroed after a change of owner (R214). -/
  zeroing : List Nat := []
  /-- Swaps in progress (R378): logical tile, from, to (physical), and whether the tile left for a test. -/
  swaps : List (Nat × Nat × Nat × Bool) := []
  /-- Physical tiles: time at which the next test falls due, with 1 added, 0 before the schedule has started; those that are due
  and wait (R380); stokes since an ACTIVE tile became test-pending (R381). -/
  dueAt : Tab Nat := []
  due : List Nat := []
  tpend : List (Nat × Nat) := []
  /-- Logical tiles that the grace has closed to admission (R381). -/
  drains : List Nat := []
  /-- Tiles in TEST: physical tile, frames done, whether this frame was granted (R382). -/
  testing : List (Nat × Nat × Bool) := []
  /-- Times of the compute and checker events of a physical tile within `QUAR_WINDOW`, newest first (R375). -/
  events : Tab (List Nat) := []
deriving DecidableEq, Repr

/-- Scrub and marking state (R242, R253-R256): positions by store, corrections of the pass keyed by `18 * stack + die`. -/
structure Integ where
  pos : Tab Nat := []
  passErr : Tab Nat := []
  /-- Start of the current pass, and passes counted late, by store. -/
  began : Tab Nat := []
  late : List Nat := []
  /-- Errors in words of SRAM other than tile stores, in the 80 stored bits (R244): oldest first. -/
  errs : List ((ScrubStore × Nat) × BitVec 80) := []
  /-- Write-back queues of that SRAM (R246), keyed by `scrubKey`: the corrected words that wait. -/
  wbq : Tab (List (ScrubStore × Nat)) := []
  /-- Attempts of crossings outside executions that bring errors (R239), in order: an address in the block, the pattern. -/
  cross : List (Nat × List Byte) := []
  /-- Residue mismatches that the next operation of a unit meets (R366). -/
  resid : List FdUnit := []
deriving DecidableEq, Repr

/-- A record of the persistent log (Table MG-6). -/
structure LogRec where
  seq : Nat
  kind : Nat
  boot : Nat
  uptime : Nat
  frame : Nat
  frameValid : Bool
  data : List Byte
  /-- The CRC-32C that was written with it. -/
  crc : Nat := 0
deriving DecidableEq, Repr

/-- An SPDM secure session (R448): its requester, key, whether FINISH has opened it, the sequence number that the next message carries. -/
structure Sess where
  id : Nat
  ep : Peer
  key : List Byte
  open_ : Bool
  rx : Nat := 0
deriving DecidableEq, Repr

/-- A firmware update in progress (R445): agent, components received, verified. -/
structure FwUpd where
  ep : Peer
  got : List Nat := []
  verified : Bool := false
deriving DecidableEq, Repr

/-- A message of Chimney (R437): to an endpoint, of an MCTP message type, with the type inside of a secured one (else the same) and its
session, the PCI vendor ID of a vendor-defined one, the code of the request or event, the status (0 success; of Table MG-5's messages the
status byte), and what it carries, in the order in which the manual names it. -/
structure Msg where
  ep : Peer
  ty : Nat
  inner : Nat
  sess : Option Nat
  vendor : Option Nat
  code : Nat
  status : Nat
  items : List Int
deriving DecidableEq, Repr

/-- The sensor thresholds that the configuration area of flash holds (Table MG-2; Tables MG-4, SU-3), in the units of Table MG-3: of the
Fatal conditions, and the coolant inlet up to which the package starts. The supplies are watched between snapshots: their conditions come as
INPUT_UNDERVOLTAGE, RAIL_FAULT and CHIMNEY_FATAL_CONDITION. -/
structure Limits where
  junction : Int := 880
  /-- Input voltage in 10 mV, and for how many microseconds. -/
  inputLow : Int := 4000
  inputHigh : Int := 6000
  inputUs : Nat := 100
  /-- A supply off its regulated value in mV, and for how many microseconds. -/
  railOff : Int := 50
  railUs : Nat := 10
  /-- Coolant inlet, and for how many seconds. -/
  coolantHot : Int := 360
  coolantS : Nat := 10
  coolantStart : Int := 320
deriving DecidableEq, Repr

/-- What an entry of the health table marks (R443): a die of a stack, a tile of a compute die, a Grate pair of a stack. -/
inductive HealthKind where
  | die | tile | pair
deriving DecidableEq, Repr

/-- An entry of the health table: its place (the stack or the compute die), and its copies in flash, each with its CRC-32C (R443). -/
structure HealthEnt where
  kind : HealthKind
  place : Nat
  copies : List (List Byte × Nat)
deriving DecidableEq, Repr

/-- Chimney (chapter 16) beside the registers of the mailbox. -/
structure Chim where
  running : Bool := false
  /-- Recovery mode from ROM (R447). -/
  recovery : Bool := false
  /-- Boot pointer, bank that Chimney runs, bank that the package runs (0 A, 1 B), bank marked invalid. -/
  active : Nat := 0
  runs : Nat := 0
  pkgBank : Nat := 0
  invalid : List Nat := []
  /-- Component images that were transferred, keyed by `8 * bank + component`; the factory's elsewhere. -/
  images : Tab (Option (List Byte)) := []
  /-- The images that run, by component: Chimney's as it started, the package's as step 5 loaded them (R448). -/
  ran : Tab (Option (List Byte)) := []
  /-- Fused minimum security version by component. -/
  svn : Tab Nat := []
  update : Option FwUpd := none
  /-- New firmware that has not marked itself healthy: its start and the bank before it (R446). -/
  probation : Option (Nat × Nat) := none
  /-- Time of start, the time from which a restarted Chimney runs again (R446), count of starts. -/
  startedAt : Nat := 0
  upAt : Nat := 0
  boot : Nat := 0
  /-- The log in flash; records that wait to be written, with the times of their events; whether some were dropped (R441, R442). -/
  log : List LogRec := []
  logSeq : Nat := 1
  buf : List (Nat × LogRec) := []
  lost : Bool := false
  limits : Limits := {}
  /-- Since which snapshot the coolant inlet has been above its limit, and whether that has raised its Fatal fault (Table MG-4). -/
  hotSince : Option (Nat × Bool) := none
  /-- Health table, in flash (R443), in the order in which its entries were written. -/
  health : List HealthEnt := []
  /-- Replacement reports made: reason code, unit (Table MG-7, kind 7). -/
  replace : List (Nat × Nat) := []
  /-- Keys (R434, R449, Table MG-11): job keys by domain, identity key, sessions. -/
  jobKeys : Tab (Option (List Byte)) := []
  idKey : Option (List Byte) := none
  /-- The certificate for the identity key that Chimney issued at its start (R448). -/
  issued : List Byte := []
  sessions : List Sess := []
  nextSess : Nat := 1
  /-- Until when a request of an endpoint is in progress (R439). -/
  busy : Tab Nat := []
  /-- SPDM state by endpoint: 0 none, 1 version, 2 capabilities, 3 algorithms; times of authentication failures. -/
  conn : Tab Nat := []
  fails : List Nat := []
  /-- Time of the last kind-9 record, and triggers folded since (R451). -/
  alarmAt : Option Nat := none
  folded : Nat := 0
  /-- Measurement index 7 taken at lock (R467). -/
  lockMeas : Option (List Byte) := none
  /-- Sensor snapshot: (sensor, reading), and its uptime in microseconds (R435). -/
  snap : List (Nat × Int) := []
  snapAt : Nat := 0
  /-- Endpoint IDs by binding, as its bus owner assigned them, and I3C dynamic addresses by port (R437, R494). -/
  eids : Tab Nat := []
  i3c : Tab Nat := []
  /-- Answers and events sent, oldest first. -/
  out : List Msg := []
  /-- The mailbox request that waits for Chimney's answer, as `GO` submitted it (R440). -/
  mbx : Option (List Byte) := none
deriving DecidableEq, Repr

/-- Where the package stands (Table SU-3). -/
inductive Pkg where
  /-- The rails are off. -/
  | off
  /-- A reset of level 1 holds it; the held phase has to run. -/
  | inReset
  /-- A step of the held phase failed: held until the next reset. -/
  | held
  /-- The held phase is done; it waits for both reset pins. -/
  | ready
  /-- Package reset is released. -/
  | released
deriving DecidableEq, Repr

/-- Supplies, pins and reset (chapters 17, 19). -/
structure Pwr where
  /-- The auxiliary domain has power. -/
  aux : Bool := false
  pkg : Pkg := .off
  /-- The rails were turned off by a rail fault: they wait for RESET_N or PERST_N (R455). -/
  waitReset : Bool := false
  /-- The rails were turned off by an input loss (R455). -/
  waitInput : Bool := false
  /-- The strap as sampled at release (R463). -/
  masterSel : Bool := false
  /-- The first stoke has fallen since release. -/
  stoked : Bool := false
  pcieUp : Bool := false
  bar0 : Bool := false
  /-- PCIe configuration space, by dword offset: what configuration writes stored. -/
  cfg : Tab W32 := []
  /-- Power state D3hot (Table HR-1), and the AER uncorrectable-error status (log entry 34). -/
  d3 : Bool := false
  aerUe : W32 := 0#32
  /-- MSI-X Enable and Function Mask of the MSI-X capability's Message Control (R414; log entry 34). -/
  msixOn : Bool := false
  msixMask : Bool := false
deriving DecidableEq, Repr

/-- The whole module, and the queue of waiting commands. -/
structure State where
  /-- Commands that wait, first in first out. -/
  pending : List Instr := []
  /-- The next free value (log entry 1). -/
  free : Nat := 0
  /-- Time in nanoseconds: counts of the 1 GHz frame reference (R33; log entry 3). -/
  now : Nat := 0
  regs : Tab W64 := []
  mem : Mem := {}
  pipe : Pipe := {}
  frame : Frame := {}
  doms : Tab Dom := []
  ctxs : Tab Ctx := []
  upd : Upd := {}
  fab : Fab := {}
  tiles : Tiles := {}
  flt : Flt := {}
  host : HostIf := {}
  integ : Integ := {}
  chim : Chim := {}
  pwr : Pwr := {}
deriving DecidableEq, Repr

/-- The module as power-on reset leaves it (R459, Table SU-2): the package has no power and no command waits. Registers
hold what `regReset` gives, memory lists nothing. -/
def State.reset : State := {}

end Sys2Proof.Machine
end

