-- ==== Sys2Proof/Machine/Regs.lean ====
section
/-!
DEFINITION. The one place that reads and writes registers, counters, domains, queues, runs. Every other file goes through
these accessors.
-/
namespace Sys2Proof.Machine

/-! ### Registers -/

/-- The register word at a BAR0 offset. -/
def State.reg (s : State) (off : Nat) : W64 := Tab.get regReset s.regs off

/-- Store a register word. -/
def State.setReg (s : State) (off : Nat) (v : W64) : State := { s with regs := Tab.set regReset s.regs off v }

/-- Field `[hi:lo]` of a register. -/
def State.rf (s : State) (off hi lo : Nat) : Nat := fld (s.reg off) hi lo

/-- Bit `[i]` of a register. -/
def State.rb (s : State) (off i : Nat) : Bool := fbit (s.reg off) i

/-- Set field `[hi:lo]` of a register. -/
def State.setRf (s : State) (off hi lo v : Nat) : State := s.setReg off (setFld (s.reg off) hi lo v)

/-- Set bit `[i]` of a register. -/
def State.setRb (s : State) (off i : Nat) (b : Bool) : State := s.setRf off i i (b2n b)

/-- Is a counter a term of a ledger of Table FC-5 (R472)? Damper tokens; offered, written, dropped; discarded steps and
update counts. -/
def isLedgerTerm (off : Nat) : Bool :=
  (cTokensCarried ≤ off && off ≤ cTokensExpired) ||
  (decide (0x00100000 ≤ off ∧ off < 0x00200000) &&
    (let o := off % 0x1000
     (0x400 ≤ o && o ≤ 0x410) || (0x438 ≤ o && o ≤ 0x460) || (0x100 ≤ o && o < 0x240)))

/-- Add to a counter: modulo 2^48 for a term of a ledger, stopping at 2^48 - 1 otherwise (R472). -/
def State.bump (s : State) (off n : Nat) : State :=
  let v := (s.reg off).toNat + n
  s.setReg off (BitVec.ofNat 64 (if isLedgerTerm off then v % 2 ^ 48 else min v (2 ^ 48 - 1)))

/-- Is set-up locked (R467)? -/
def State.locked (s : State) : Bool := s.rb rSetupLock 0

/-- The current frame number (R30). -/
def State.frameNo (s : State) : Nat := s.rf rFrameNumber 47 0

/-- The period of the current frame in nanoseconds (R31). -/
def State.periodNs (s : State) : Nat := s.rf rStokePeriod 12 0 * 1000

/-- The frame-time count: 1 GHz, 23 bits (R33). -/
def State.ftime (s : State) : Nat := min (s.now - s.frame.stokeAt) (2 ^ 23 - 1)

/-- Carry the clock to a time: timed commands say that their time has come (log entry 3). -/
def State.timeTo (s : State) (t : Nat) : State := { s with now := max s.now t }

/-- Take the next free value (log entry 1). -/
def State.freeByte (s : State) : Byte × State := (Config.freeByte s.free, { s with free := s.free + 1 })
def State.freeWord (s : State) : W64 × State := (Config.freeWord s.free, { s with free := s.free + 1 })

/-! ### Domains, contexts -/

def domReset (_ : Nat) : Dom := {}
def ctxReset (_ : Nat) : Ctx := {}

def State.dom (s : State) (d : Nat) : Dom := Tab.get domReset s.doms d
def State.modDom (s : State) (d : Nat) (f : Dom → Dom) : State := { s with doms := Tab.set domReset s.doms d (f (s.dom d)) }
def State.ctx (s : State) (c : Nat) : Ctx := Tab.get ctxReset s.ctxs c
def State.modCtx (s : State) (c : Nat) (f : Ctx → Ctx) : State := { s with ctxs := Tab.set ctxReset s.ctxs c (f (s.ctx c)) }

/-- Is domain d enabled (Table MS-2), and FAULTED (R420)? -/
def State.domOn (s : State) (d : Nat) : Bool := s.rb (rDomCtl d) 0
def State.faulted (s : State) (d : Nat) : Bool := s.rb (rDomCtl d) 2

/-! ### Queues, rings, runs, tallies -/

/-- The element type of a tile header (Table SK-7). -/
def tileEty : Nat → Option ETy
  | 0 => some .zf8 | 1 => some .zg8 | 2 => some .zf16 | 3 => some .zg16 | 4 => some .za32 | _ => none

/-- The header code of an element type. -/
def etyTile : ETy → Nat
  | .zf8 => 0 | .zg8 => 1 | .zf16 | .zm32 => 2 | .zg16 => 3 | _ => 4

def queueReset (_ : Nat) : Queue := {}
def keyReset (_ : Nat) : Option (List Byte) := none
def ringReset (_ : Nat) : Ring := {}
def cplReset (_ : Nat) : Cpl := {}
def tallyReset (_ : Nat) : BitVec 48 := 0#48
def natReset (_ : Nat) : Nat := 0
def w32Reset (_ : Nat) : W32 := 0#32
def boolReset (_ : Nat) : Bool := false

def State.queue (s : State) (q : Nat) : Queue := Tab.get queueReset s.pipe.queues q
def State.setQueue (s : State) (q : Nat) (v : Queue) : State :=
  { s with pipe := { s.pipe with queues := Tab.set queueReset s.pipe.queues q v } }
/-- The head of a queue. -/
def State.head (s : State) (q : Nat) : Option QEnt := (s.queue q).ents.head?
/-- Replace the head of a queue. -/
def State.setHead (s : State) (q : Nat) (h : QEnt) : State :=
  let v := s.queue q
  match v.ents with
  | [] => s
  | _ :: t => s.setQueue q { v with ents := h :: t }
/-- Take the head out of a queue. -/
def State.popHead (s : State) (q : Nat) : State :=
  let v := s.queue q
  s.setQueue q { v with ents := v.ents.drop 1 }
/-- Put an entry at the end of a queue. -/
def State.pushQueue (s : State) (q : Nat) (c : QEnt) : State :=
  let v := s.queue q
  s.setQueue q { v with ents := v.ents ++ [c] }

def State.ring (s : State) (r : Nat) : Ring := Tab.get ringReset s.pipe.rings r
def State.setRing (s : State) (r : Nat) (v : Ring) : State :=
  { s with pipe := { s.pipe with rings := Tab.set ringReset s.pipe.rings r v } }
def State.cpl (s : State) (c : Nat) : Cpl := Tab.get cplReset s.pipe.cpls c
def State.setCpl (s : State) (c : Nat) (v : Cpl) : State :=
  { s with pipe := { s.pipe with cpls := Tab.set cplReset s.pipe.cpls c v } }

def State.runs (s : State) : List Run := s.pipe.runs
def State.setRuns (s : State) (rs : List Run) : State := { s with pipe := { s.pipe with runs := rs } }
def State.findRun (s : State) (id : Nat) : Option Run := s.runs.find? (fun r => r.cmd.id == id)
def State.modRun (s : State) (id : Nat) (f : Run → Run) : State :=
  s.setRuns (s.runs.map (fun r => if r.cmd.id == id then f r else r))
def State.dropRun (s : State) (id : Nat) : State := s.setRuns (s.runs.filter (fun r => r.cmd.id != id))
def State.addRun (s : State) (r : Run) : State := s.setRuns (s.runs ++ [r])

def State.tally (s : State) (t : Nat) : BitVec 48 := Tab.get tallyReset s.pipe.tally t
def State.setTally (s : State) (t : Nat) (v : BitVec 48) : State :=
  { s with pipe := { s.pipe with tally := Tab.set tallyReset s.pipe.tally t v } }

def streamReset (_ : Nat) : Stream := {}
def State.stream (s : State) (n : Nat) : Stream := Tab.get streamReset s.fab.streams n
def State.modStream (s : State) (n : Nat) (f : Stream → Stream) : State :=
  { s with fab := { s.fab with streams := Tab.set streamReset s.fab.streams n (f (s.stream n)) } }

/-- Post a write or a message to the host. -/
def State.post (s : State) (p : Post) : State := { s with host := { s.host with posts := s.host.posts ++ [p] } }

/-- Operand and header words of a command. -/
def Cmd.word (c : Cmd) (i : Nat) : W64 := c.words.getD i 0
def Cmd.op (c : Cmd) (i : Nat) : W64 := c.word (4 + i)
def Cmd.opcode (c : Cmd) : Nat := fld (c.word 0) 7 0
def Cmd.tag (c : Cmd) : Nat := fld (c.word 0) 63 32
def Cmd.bound (c : Cmd) : Nat := fld (c.word 1) 31 0
def Cmd.tokens (c : Cmd) : Nat := fld (c.word 1) 63 32
def Cmd.zones (c : Cmd) : Nat := fld (c.word 2) 37 0

/-- Is queue q a tile queue (R390)? -/
def isTileQ (q : Nat) : Bool := q < 96

/-- The queue an entry names: 48 x die + logical tile, or 96 + ring (Table HR-4). -/
def Cmd.target (c : Cmd) : Nat :=
  let w := c.word 0
  if fbit w 8 then 48 * fld w 9 9 + fld w 15 10 else 96 + c.ring

/-- The physical tile index `52 * die + p` behind logical tile `t = 48 * die + l` (R378). -/
def State.physOf (s : State) (t : Nat) : Nat := 52 * (t / 48) + s.rf (rTileMap t) 5 0

/-- Is a logical tile OUT (R379)? -/
def State.tileOut (s : State) (t : Nat) : Bool := s.rb (rTileMap t) 8

/-- The owner of a logical tile (R213). -/
def State.tileOwner (s : State) (t : Nat) : Nat := s.rf (rTileDomain t) 7 0

/-- The compute-die zone of physical tile `j = 52 * die + p` (R58). -/
def zoneOfPhys (j : Nat) : Nat :=
  let p := j % 52
  16 * (j / 52) + (if p < 36 then p / 3 else 12 + (p - 36) / 4)

end Sys2Proof.Machine
end

