-- ==== Sys2Proof/Machine/Report.lean ====
section
/-!
DEFINITION. Reporting of events (15_fault_collection): fault records and the fault ring (R424-R427), first-error
registers (R425), SMOKE_N pulses (R428), Corrected and Replayed events, MSI-X messages (R414, R415).
-/
namespace Sys2Proof.Machine

/-- What a fault record says of an event (Table FC-3), its time-stamp and sequence number apart. -/
structure Ev where
  cls : Nat
  src : Nat
  dom : Option Nat := none
  addr : Nat := 0
  akind : Nat := 0
  mkind : Nat := 0
  mid : Nat := 0
  acc : Nat := 0
  cmd : Option Cmd := none
  detail : Nat := 0
deriving DecidableEq, Repr

/-- The eight words of a fault record (Table FC-3). -/
def Ev.words (e : Ev) (firstMod firstDom : Bool) (seq frame ftime supp : Nat) : List W64 :=
  let n (x : Nat) : W64 := BitVec.ofNat 64 x
  [ n (e.cls + 4 * b2n firstMod + 8 * b2n firstDom + e.src * 2 ^ 8 + (e.dom.getD 0) * 2 ^ 16 + b2n e.dom.isSome * 2 ^ 24
      + seq * 2 ^ 32),
    n (e.addr % 2 ^ 52 + e.akind * 2 ^ 52),
    n (e.mkind + e.mid * 2 ^ 4 + e.acc * 2 ^ 20 + (match e.cmd with | some c => c.opcode * 2 ^ 24 | none => 0)),
    n frame,
    n (ftime + (match e.cmd with | some c => c.tag * 2 ^ 32 | none => 0)),
    n (match e.cmd with | some c => c.idx % 2 ^ 16 + c.ring * 2 ^ 16 + 2 ^ 22 | none => 0),
    n e.detail,
    n (min supp (2 ^ 32 - 1)) ]

/-- Store a list of words in consecutive registers. -/
def State.setRegs (s : State) (off : Nat) : List W64 → State
  | [] => s
  | w :: ws => State.setRegs (s.setReg off w) (off + 8) ws

/-- Is a vector masked under the MSI-X rules (R414): by its table entry, by Function Mask, or because MSI-X is not enabled (log entry 34)? -/
def State.masked (s : State) (v : Nat) : Bool := !s.pwr.msixOn || s.pwr.msixMask || s.rb (rMsixTable + 16 * v + 8) 32

/-- Send the MSI-X message of a vector; a masked vector keeps its pending bit in the PBA instead (R414). -/
def State.sendMsix (s : State) (v : Nat) : State :=
  let t := rMsixTable + 16 * v
  if s.masked v then s.setRb (rMsixPba + 8 * (v / 64)) (v % 64) true
  else
    let s := s.setRb (rMsixPba + 8 * (v / 64)) (v % 64) false
    let s := s.post (.msix v (s.reg t) (BitVec.ofNat 64 (s.rf (t + 8) 31 0)))
    { s with host := { s.host with lastMsg := Tab.set natReset s.host.lastMsg v (s.now + 1) } }

/-- Drive SMOKE_N low for a Contained or Fatal event (R428). -/
def State.smokePulse (s : State) : State :=
  { s with flt := { s.flt with smoke := false, pulse := some (s.now + 10000) } }

/-- The sequence number after `q`: incremented per record, skipping 0 (Table FC-3). -/
def nextSeq (q : Nat) : Nat := if (q + 1) % 2 ^ 32 = 0 then 1 else (q + 1) % 2 ^ 32

/-- Write a record to the fault ring (R426, R427): Corrected and Replayed records need more than 8 free slots. -/
def State.toRing (s : State) (cls : Nat) (ws : List W64) : State :=
  if s.rb rFaultRingCfg 8 then
    let k := s.rf rFaultRingCfg 3 0
    let pi := s.rf rFaultPi 31 0
    let used := (pi + 2 ^ 32 - s.rf rFaultCi 31 0) % 2 ^ 32
    let free := 2 ^ k - used
    if free = 0 ∨ (cls < 2 ∧ free ≤ 8) then s.bump cFaultLost 1
    else
      let s := s.post (.fault ((s.reg rFaultRingBase).toNat + 64 * (pi % 2 ^ k)) ws)
      s.setRf rFaultPi 31 0 ((pi + 1) % 2 ^ 32)
  else s

/-- Would an event be latched in `FIRST_ERR`: Contained or Fatal, and `FIRST_ERR_VALID` clear (R425)? -/
def State.firstMod (s : State) (e : Ev) : Bool := decide (2 ≤ e.cls) && !s.rb rFaultCtl 8

/-- Would an event be latched in `DOM_FIRST_ERR` of its domain: the first Contained one since it was last cleared (R425)? -/
def State.firstDom (s : State) (e : Ev) : Bool :=
  decide (e.cls = 2) && (match e.dom with
    | some d => !(List.range 8).any (fun i => s.reg (rDomFirstErr d + 8 * i) != 0#64)
    | none => false)

/-- The record of an event now, with a sequence number. -/
def State.recordOf (s : State) (e : Ev) (seq supp : Nat) : List W64 :=
  e.words (s.firstMod e) (s.firstDom e) seq s.frameNo s.ftime supp

/-- The first-error registers take the record of an event that they latch (R425). -/
def State.latch (s : State) (e : Ev) (ws : List W64) : State :=
  let t := if s.firstMod e then (s.setRegs rFirstErr ws).setRb rFaultCtl 8 true else s
  if s.firstDom e then t.setRegs (rDomFirstErr (e.dom.getD 0)) ws else t

/-- An event that writes no record of its own is latched all the same where it is a first one (R421, R425); no record carries its
number, which is 0 (log entry 108). -/
def State.latchOnly (s : State) (e : Ev) : State := s.latch e (s.recordOf e 0 0)

/-- A record is formed: the first-error registers latch it (R425), and its sequence number is used. -/
def State.form (s : State) (e : Ev) (ws : List W64) : State :=
  let t := s.latch e ws
  { t with flt := { t.flt with seq := nextSeq s.flt.seq } }

/-- Form the record of an event and write it to the ring. -/
def State.record (s : State) (e : Ev) (supp : Nat) : State :=
  let ws := s.recordOf e s.flt.seq supp
  (s.form e ws).toRing e.cls ws

/-- A Corrected (source 1-5) or Replayed (6-8) event (R425): counted always; recorded when its class is enabled, once a
source and frame; later ones are folded. -/
def State.minor (s : State) (e : Ev) : State :=
  let cls := if e.src ≤ 5 then 0 else 1
  let s := s.bump (if cls = 0 then cFaultCe else cFaultRp) 1
  if !s.rb rFaultCtl cls then s
  else if s.flt.reported.contains e.src then
    { s with flt := { s.flt with folded := Tab.set natReset s.flt.folded e.src (Tab.get natReset s.flt.folded e.src + 1) } }
  else
    let n := Tab.get natReset s.flt.folded e.src
    let s := { s with flt := { s.flt with reported := e.src :: s.flt.reported,
                                           folded := Tab.set natReset s.flt.folded e.src 0 } }
    s.record { e with cls := cls } n

/-- Who met an event, as Table FC-3 says it: master kind, master number, access. -/
structure By where
  kind : Nat := 0
  id : Nat := 0
  acc : Nat := 0
deriving DecidableEq, Repr

/-- A Corrected event: its source, address, address kind, and who met it (R424). -/
def State.corrected (s : State) (src addr akind : Nat) (by' : By) : State :=
  s.minor { cls := 0, src, addr, akind, mkind := by'.kind, mid := by'.id, acc := by'.acc }

end Sys2Proof.Machine
end

