-- ==== Sys2Proof/Machine/Alarm.lean ====
section
/-!
DEFINITION. What Chimney records and erases on an event of the package (16_chimney_management): the persistent log (R441,
R442), the health table (R443), the Snuffer alarm (R450, R451).
-/
namespace Sys2Proof.Machine

/-- Time since Chimney started, in microseconds. -/
def State.uptime (s : State) : Nat := (s.now - s.chim.startedAt) / 1000

/-- The sequence number of the record after `q` (R441): it skips 0. -/
def logNext (q : Nat) : Nat := nextSeq q

/-- Pad or cut the data of a log record to its 32 bytes (Table MG-6). -/
def logData (bs : List Byte) : List Byte := (bs ++ List.replicate 32 0).take 32

/-- Bytes 0-59 of a log record, over which its CRC-32C runs (Table MG-6). -/
def LogRec.bytes (r : LogRec) : List Byte :=
  leBytes 4 r.seq ++ leBytes 1 r.kind ++ leBytes 2 r.boot ++ leBytes 1 0 ++ leBytes 8 r.uptime ++ leBytes 6 r.frame ++
  leBytes 2 (b2n r.frameValid) ++ logData r.data ++ leBytes 4 0

/-- Is a kind of record written before any other (R442)? -/
def urgentKind (k : Nat) : Bool := decide (k ≤ 7) || k == 9

/-- The pending record that Chimney writes next (R442). -/
def Chim.nextRec (c : Chim) : Option (Nat × LogRec) :=
  (c.buf.find? (fun b => urgentKind b.2.kind)).orElse (fun _ => c.buf.head?)

/-- Chimney writes its next pending record to flash (R441, R442): a full ring loses its oldest 1,024 records first; after a drop bit 255 of
`DATA` is set. -/
def Chim.writeRec (c : Chim) : Chim :=
  match c.nextRec with
  | none => c
  | some b =>
    let r := { b.2 with seq := c.logSeq, data := if c.lost then modAt b.2.data 31 (· ||| 0x80#8) else b.2.data }
    let old := if 180224 ≤ c.log.length then c.log.drop 1024 else c.log
    { c with log := old ++ [{ r with crc := crc32c r.bytes }], logSeq := logNext c.logSeq, buf := c.buf.erase b, lost := false }

/-- Chimney writes `n` records, or as many as wait. -/
def Chim.writeRecs (c : Chim) (n : Nat) : Chim := (List.range (min n c.buf.length)).foldl (fun c _ => c.writeRec) c

/-- Records of events 5 ms past are in flash (R442). -/
def Chim.writeDue (c : Chim) (now : Nat) : Chim :=
  c.buf.foldl (fun (c : Chim) _ => if c.buf.any (fun b => decide (b.1 + 5000000 ≤ now)) then c.writeRec else c) c

/-- Write a record to the persistent log (R441, R442): it waits in a buffer of 256. How many of a full buffer have gone to flash is free
(log entry 78); a record of kind 8, 10 or 11 that finds it full is dropped, for another one room is made. -/
def State.logRec (s : State) (kind : Nat) (data : List Byte) : State :=
  let c := s.chim.writeDue s.now
  let fr := if s.frame.locked then s.frameNo else 0
  let r : LogRec := ⟨0, kind, c.boot % 65536, s.uptime, fr, s.frame.locked, logData data, 0⟩
  if c.buf.length < 256 then { s with chim := { c with buf := c.buf ++ [(s.now, r)] } }
  else
    let v := s.freeByte
    let c := c.writeRecs v.1.toNat
    if c.buf.length < 256 then { v.2 with chim := { c with buf := c.buf ++ [(s.now, r)] } }
    else if urgentKind kind then { v.2 with chim := { c.writeRec with buf := c.writeRec.buf ++ [(s.now, r)] } }
    else { v.2 with chim := { c with lost := true } }

/-- A message of Chimney to an endpoint (R437); inside a secure session it goes as a secured message. -/
def Msg.of (ep : Peer) (ty code status : Nat) (items : List Int) (sess : Option Nat) : Msg :=
  { ep, ty := if sess.isSome then 0x06 else ty, inner := ty, sess, vendor := if ty = 0x7E then some Config.pciVendorId else none,
    code, status, items }

def State.tell (s : State) (ep : Peer) (ty code status : Nat) (items : List Int) (sess : Option Nat := none) : State :=
  { s with chim := { s.chim with out := s.chim.out ++ [Msg.of ep ty code status items sess] } }

/-- The transmission unit of a binding: 64 to 1,024 bytes (R437). -/
def mctpUnitOf (b : Binding) : Nat := 64 + Config.mctpUnit b.no % 961

/-- Bytes in pieces of at most `n`. -/
def pieces (n : Nat) (bs : List Byte) : List (List Byte) := (List.range ((bs.length + n - 1) / n)).map (fun i => (bs.drop (i * n)).take n)

/-- The packets in which a message goes over its binding, each with at most one transmission unit of its body (R437). -/
def Msg.packets (m : Msg) : List (List Byte) :=
  pieces (mctpUnitOf m.ep.bind) (BitVec.ofNat 8 m.status :: Config.answerBytes m.code m.items)

/-- A message on an I3C port goes with an in-band interrupt (R494). -/
def Msg.inBand (m : Msg) : Bool := m.ep.bind != .pcie

/-- The bindings over which a message can go now: both I3C ports, and PCIe while its link is up. -/
def State.bindings (s : State) : List Binding := [.i3c 0, .i3c 1] ++ (if s.pwr.pcieUp then [.pcie] else [])

/-- An event message to the bus owner of each binding (R423, R451, R494): type 0x7E, the log kind as its code. -/
def State.mctpEvent (s : State) (kind : Nat) (items : List Int) : State :=
  s.bindings.foldl (fun s b => s.tell ⟨b, 0⟩ 0x7E kind 0 items) s

/-- The record of a Contained or Fatal fault in the log, in two halves (Table MG-7), and the report over MCTP of a Fatal one
(R423). -/
def State.logFault (s : State) (cls : Nat) (ws : List W64) : State :=
  let s := (s.logRec 1 (wordsBytes (ws.take 4))).logRec 2 (wordsBytes (ws.drop 4))
  if cls = 3 then s.mctpEvent 1 (ws.map (fun w => (w.toNat : Int))) else s

/-! ### The health table -/

def HealthKind.no : HealthKind → Nat
  | .die => 0 | .tile => 1 | .pair => 2

/-- How many units a place has: dies of a stack, tiles of a compute die, Grate pairs of a stack. -/
def HealthKind.units : HealthKind → Nat
  | .die => 18 | .tile => 52 | .pair => 8

/-- One copy of an entry: kind, place and index under their CRC-32C (R443; the layout is log entry 56). -/
def healthCopy (k : HealthKind) (place i : Nat) : List Byte × Nat :=
  let bs := [BitVec.ofNat 8 k.no, BitVec.ofNat 8 place, BitVec.ofNat 8 i]
  (bs, crc32c bs)

/-- The index of a copy. -/
def copyIndex (c : List Byte × Nat) : Nat := (c.1.getD 2 0).toNat

/-- The unit that an entry names (R443): by a copy whose CRC holds; where both fail, the index survives that both copies still show, if it is
one of the place's (log entry 56). -/
def HealthEnt.index (e : HealthEnt) : Option Nat :=
  match e.copies.find? (fun c => c.2 == crc32c c.1) with
  | some c => some (copyIndex c)
  | none =>
    match e.copies with
    | [a, b] => if copyIndex a = copyIndex b ∧ copyIndex a < e.kind.units then some (copyIndex a) else none
    | _ => none

/-- The places and indices of one kind, in the order of the table. -/
def Chim.marks (c : Chim) (k : HealthKind) : List (Nat × Option Nat) :=
  (c.health.filter (fun e => e.kind == k)).map (fun e => (e.place, e.index))

/-- Marked dies, stack by stack; physical tiles and Grate pairs that are quarantined. Of an entry without an index the whole compute die
counts; of a stack all its Grate pairs (R443, log entry 56). -/
def Chim.dies (c : Chim) : List (Nat × Nat) := (c.marks .die).filterMap (fun m => m.2.map (fun d => (m.1, d)))
def Chim.tiles (c : Chim) : List Nat :=
  (c.marks .tile).flatMap (fun m => match m.2 with | some j => [52 * m.1 + j] | none => rangeFrom (52 * m.1) 52)
def Chim.pairs (c : Chim) : List Nat :=
  (c.marks .pair).flatMap (fun m => match m.2 with | some i => [8 * m.1 + i] | none => rangeFrom (8 * m.1) 8) ++
  (c.marks .die).flatMap (fun m => if m.2.isNone then rangeFrom (8 * m.1) 8 else [])

/-- Chimney writes an entry of the health table, both copies, before the log hears of it (R443); an entry that stands is not written again, and
none is ever taken out. -/
def Chim.mark (c : Chim) (k : HealthKind) (place i : Nat) : Chim :=
  if (c.marks k).contains (place, some i) then c
  else { c with health := c.health ++ [⟨k, place, [healthCopy k place i, healthCopy k place i]⟩] }

def State.markHealth (s : State) (k : HealthKind) (place i : Nat) : State := { s with chim := s.chim.mark k place i }

/-- An error of flash in a copy of an entry: its pattern over the bytes and the CRC. -/
def Chim.hurtEntry (c : Chim) (b : BadEntry) : Chim :=
  { c with health := modAt c.health b.entry (fun e =>
      { e with copies := modAt e.copies b.copy (fun x =>
          (x.1.zipIdx.map (fun y => y.1 ^^^ BitVec.ofNat 8 (b.pat / 2 ^ (8 * y.2))), x.2 ^^^ (b.pat / 2 ^ 24 % 2 ^ 32))) }) }

/-- A replacement report (R243, R376, R379), once for a reason and unit: reason 1 second failed die, 2 fewer than 4 Grate
pairs, 3 no SPARE tile, 4 stack training. -/
def State.replacement (s : State) (reason unit : Nat) : State :=
  if s.chim.replace.contains (reason, unit) then s
  else
    let s := { s with chim := { s.chim with replace := s.chim.replace ++ [(reason, unit)] } }
    s.logRec 7 [BitVec.ofNat 8 reason, BitVec.ofNat 8 unit]


/-- Does Chimney hold a key of the classes of a mask (Table MG-11): bit 0 session keys, bit 1 job keys, bit 2 identity key? -/
def Chim.holds (c : Chim) (mask : Nat) : Bool :=
  (bit mask 0 && !c.sessions.isEmpty) || (bit mask 1 && !c.jobKeys.isEmpty) || (bit mask 2 && c.idKey.isSome)

/-- Erase key classes (R451): zeroed and gone; sessions end. -/
def Chim.erase (c : Chim) (mask : Nat) : Chim :=
  { c with
    sessions := if bit mask 0 then [] else c.sessions
    jobKeys := if bit mask 1 then [] else c.jobKeys
    idKey := if bit mask 2 then none else c.idKey }

/-- The Snuffer alarm of a trigger (R450, R451): 0 update, 1 locked write, 2 protection table, 3 SPDM. A trigger whose keys
are gone and whose status bit is set is counted and folded into at most one kind-9 record a second. -/
def State.snuffer (s : State) (t : Nat) : State :=
  let mask := s.rf rSnufferPolicy (4 * t + 2) (4 * t)
  if s.rb rSnufferStatus t && !s.chim.holds mask then
    let s := s.bump cSnuffer 1
    match s.chim.alarmAt with
    | some a =>
      if s.now < a + 1000000000 then { s with chim := { s.chim with folded := s.chim.folded + 1 } }
      else
        let s := s.logRec 9 ([BitVec.ofNat 8 t, BitVec.ofNat 8 mask] ++ leBytes 4 (s.chim.folded + 1))
        { s with chim := { s.chim with alarmAt := some s.now, folded := 0 } }
    | none => s
  else
    let errs := if bit mask 1 then s.integ.errs.filter (fun r => r.1.1 != .chimney) else s.integ.errs
    let s := { s with chim := s.chim.erase mask, integ := { s.integ with errs } }
    let s := (s.setRb rSnufferStatus t true).setRf rSnufferStatus 6 4 (s.rf rSnufferStatus 6 4 ||| mask)
    let s := s.logRec 9 ([BitVec.ofNat 8 t, BitVec.ofNat 8 mask] ++ leBytes 4 s.chim.folded)
    let s := { s with chim := { s.chim with alarmAt := some s.now, folded := 0 } }
    s.mctpEvent 9 [(t : Int), (mask : Int)]

end Sys2Proof.Machine
end

