-- ==== Sys2Proof/Machine/Format.lean ====
section
/-!
DEFINITION. Command formats (Tables HR-4, HR-5): opcodes, queues, operand words, which descriptors a command names and
whether it reads or writes them, which tallies it uses.
-/
namespace Sys2Proof.Machine

/-- What a command does with a descriptor: reads, writes, both (accumulation), or keeps records there that outlive it (the late
slots of a reduction, R356). -/
inductive Dir where
  | rd | wr | rw | keep
deriving DecidableEq, Repr

/-- A descriptor operand: its handle, whether 0xFFFF is allowed, and its direction. -/
structure Hand where
  h : Nat
  opt : Bool
  dir : Dir
deriving DecidableEq, Repr

def oTransfer : Nat := 0x05
def oConvert : Nat := 0x06
def oVclear : Nat := 0x07
def oHmul : Nat := 0x10
def oSmul : Nat := 0x11
def oGather : Nat := 0x12
def oScatter : Nat := 0x13
def oMerge : Nat := 0x14
def oCompact : Nat := 0x15
def oFunc : Nat := 0x16
def oRoute : Nat := 0x18
def oCombine : Nat := 0x19
def oStepOpen : Nat := 0x20
def oStepSeal : Nat := 0x21
def oUpdate : Nat := 0x22
def oReduceScatter : Nat := 0x28
def oAllGather : Nat := 0x29
def oAllReduce : Nat := 0x2A
def oBroadcast : Nat := 0x2B

/-- Number of operand words of an opcode, `none` for an undefined one (Table HR-5). -/
def opWords : Nat → Option Nat
  | 0x00 => some 0 | 0x01 => some 2 | 0x02 => some 1 | 0x03 => some 1 | 0x04 => some 1 | 0x05 => some 1
  | 0x06 => some 2 | 0x07 => some 1 | 0x10 => some 3 | 0x11 => some 3 | 0x12 => some 2 | 0x13 => some 2
  | 0x14 => some 2 | 0x15 => some 1 | 0x16 => some 2 | 0x18 => some 2 | 0x19 => some 2 | 0x20 => some 1
  | 0x21 => some 1 | 0x22 => some 2 | 0x28 => some 3 | 0x29 => some 3 | 0x2A => some 3 | 0x2B => some 3
  | _ => none

/-- May the opcode stand in a tile queue, in a ring queue (Table HR-5)? -/
def opInTile (o : Nat) : Bool := decide (o ≤ 0x07) || decide (0x10 ≤ o ∧ o ≤ 0x16) || o == 0x18 || o == 0x19
def opInRing (o : Nat) : Bool := decide (o ≤ 0x07) || decide (0x20 ≤ o ∧ o ≤ 0x22) || decide (0x28 ≤ o ∧ o ≤ 0x2B)

def Cmd.isCollective (c : Cmd) : Bool := decide (0x28 ≤ c.opcode ∧ c.opcode ≤ 0x2B)

/-- UPDATE's `FORM` (Table UE-5). -/
def Cmd.form (c : Cmd) : Nat := fld (c.op 0) 0 0

/-- Is the command's declared cycle bound 0 by rule (R396)? -/
def Cmd.boundZero (c : Cmd) : Bool :=
  decide (c.opcode ≤ 0x04) || c.opcode == oStepOpen || c.opcode == oStepSeal || (c.opcode == oUpdate && c.form == 0)

/-- `ACC`: bit 0 of operand word 1 of HMUL and SMUL, bit 1 of that of SCATTER (Tables HE-2, SK-3, SK-8). -/
def Cmd.acc (c : Cmd) : Bool := fbit (c.op 1) (if c.opcode = 0x13 then 1 else 0)

/-- The descriptors a command names, in the order of their fields (R209). -/
def Cmd.hands (c : Cmd) : List Hand :=
  let f (w lo : Nat) (opt : Bool) (d : Dir) : Hand := ⟨fld (c.op w) (lo + 15) lo, opt, d⟩
  let y : Dir := if c.acc then .rw else .wr
  match c.opcode with
  | 0x05 => [f 0 0 false .rd, f 0 16 false .wr]
  | 0x06 => [f 0 0 false .rd, f 0 16 false .wr]
  | 0x07 => [f 0 0 false .wr]
  | 0x10 => [f 0 0 false .rd, f 0 16 false .rd, f 0 32 false y, f 0 48 (fld (c.op 1) 2 1 == 0) .rd, f 1 16 true .wr]
  | 0x11 => [f 0 0 false .rd, f 0 16 false .rd, f 0 32 false y, f 0 48 true .rd, f 1 16 true .rd, f 1 32 true .rd,
      f 1 48 true .wr]
  | 0x12 => [f 0 0 false .rd, f 0 16 false .wr, f 0 32 false .rd]
  | 0x13 => [f 0 0 false .rd, f 0 16 false y, f 0 32 false .rd]
  | 0x14 => [f 0 0 false .rd, f 0 16 true .rd, f 0 32 false .rd, f 0 48 true .rd, f 1 0 false .wr, f 1 16 true .wr]
  | 0x15 => [f 0 0 false .rd, f 0 16 false .wr]
  | 0x16 => [f 0 0 false .rd, f 0 16 (!fbit (c.op 1) 0) .rd, f 0 32 false .wr, f 0 48 false .rd]
  | 0x18 => [f 0 0 false .rd, f 0 16 false .wr, f 0 32 false .wr, f 0 48 false .wr]
  | 0x19 => [f 0 0 false .rw, f 0 16 false .rd, f 0 32 false .rd, f 0 48 false .rd]
  | 0x20 => if fbit (c.op 0) 32 then [f 0 48 true .wr] else []
  | 0x22 => if c.form = 0 then [f 0 16 false .rd] else [f 0 16 false .rd, f 0 32 true .wr]
  | 0x28 =>
    let st := fbit (c.op 1) 6
    [f 0 0 false .rd, f 0 16 st .wr, f 0 32 (!st) .wr, f 0 48 (!(st && fld (c.op 1) 10 8 != 0)) .keep]
  | 0x29 => [f 0 0 false .rd, f 0 16 false .wr]
  | 0x2A => [f 0 0 false .rd, f 0 16 false .wr]
  | 0x2B => [f 0 0 true .rd, f 0 16 (fbit (c.op 1) 58) .wr]
  | _ => []

/-- The tally indices in use (R398 check 6). -/
def Cmd.tallies (c : Cmd) : List Nat :=
  (if fbit (c.word 0) 16 then [fld (c.word 3) 16 0] else []) ++
  (match c.opcode with
   | 0x01 => [fld (c.op 1) 16 0]
   | 0x02 => [fld (c.op 0) 16 0]
   | 0x04 => if fbit (c.op 0) 24 then [fld (c.op 0) 48 32] else []
   | 0x10 => if fbit (c.op 1) 4 then [fld (c.op 2) 16 0, fld (c.op 2) 48 32] else []
   | _ => [])

/-- Bits of a word that must be 0. -/
def zeroIn (w : W64) (hi lo : Nat) : Bool := fld w hi lo == 0

/-- Check 1 of R398: reserved fields of the header and of the operand words of Tables HR-4, HR-10, FR-3, FR-4, NF-8, HE-2,
SK-5 and their like, header fields that must be 0, unused operand words. -/
def Cmd.headerOk (c : Cmd) : Bool :=
  let w := c.word 0
  zeroIn w 31 20 && (fbit w 8 || zeroIn w 15 9) && zeroIn (c.word 2) 63 38 && zeroIn (c.word 3) 31 17 &&
  (fbit w 16 || (zeroIn (c.word 3) 16 0 && zeroIn (c.word 3) 63 32)) &&
  (rangeFrom ((opWords c.opcode).getD 0) (4 - (opWords c.opcode).getD 0)).all (fun i => c.op i == 0#64)

/-! ### What an instruction asks of its descriptors -/

/-- The role of a descriptor operand: types and spaces that the instruction's own table allows, with the causes of its checks
(Tables HE-3, SK-4); whether it holds records (R196), whether it is a Hearth operand (R196). -/
structure Role where
  tys : List ETy
  spaces : List Nat := [0, 1]
  record : Bool := false
  hearth : Bool := false
  tcause : Nat := 3
  pcause : Nat := 4
deriving DecidableEq, Repr

/-- The checks an instruction adds to Table TD-5: roles in operand order; the cause of the types that Tables TD-2 and TD-3 bind to
another operand (check 4) and of the size agreement (check 5), 0 where they pass; the causes of its own checks, of which the
lowest-numbered one is reported (R97, R209; log entry 82); whether it completes at the head (R399). -/
structure Checks where
  roles : List Role
  types : Nat := 0
  sizes : Nat := 0
  own : List Nat := []
  atOnce : Bool := false
deriving DecidableEq, Repr

/-- The first cause that is not 0. -/
def firstCause : List Nat → Nat
  | [] => 0
  | c :: cs => if c = 0 then firstCause cs else c

/-- The lowest-numbered cause that is not 0, or 0. -/
def minCause (l : List Nat) : Nat := l.foldl (fun m c => if c = 0 then m else if m = 0 then c else min m c) 0

/-- A cause when a condition fails. -/
def orCause (ok : Bool) (c : Nat) : Nat := if ok then 0 else c

/-- Types an engine reads as values: narrow formats, ZA32, ZM32 and the expanded integers (R188). -/
def valueTypes : List ETy := [.zf8, .zg8, .zf16, .zg16, .za32, .zm32, .int4, .int8]

/-- All element types. -/
def anyType : List ETy :=
  [.zf8, .zg8, .zf16, .zg16, .za32, .zm32, .int4, .int8, .b32, .b16, .bf16, .u32, .u64, .byte, .bitmap]

end Sys2Proof.Machine
end

