-- ==== Sys2Proof/Machine/Geom.lean ====
section
/-!
DEFINITION. Tensor descriptors (07_tensor_descriptors): decoding Table TD-1, the logical view (R189, R190), the address of
a stored element (R192-R194), blocks (R198), footprints (R208), injectivity (R204), fill values (R200).
-/
namespace Sys2Proof.Machine

/-- Decode the 64 bytes of a descriptor (Table TD-1). -/
def Desc.ofBits (x : Nat) : Desc :=
  { base := bits x 51 0, space := bits x 54 52, dom := bits x 63 56, aux := bits x 115 64, ety := bits x 132 128,
    rank := bits x 135 133, layout := bits x 137 136, trans := bit x 138, bscaled := bit x 139, bshape := bit x 140,
    ovfNan := bit x 141, expMode := bit x 142, expTgt := bit x 143, tensor := bits x 191 160, fill := bits x 223 192,
    padLo0 := bits x 235 224, padHi0 := bits x 247 236, padLo1 := bits x 315 304, padHi1 := bits x 379 368,
    n0 := bits x 279 256, n1 := bits x 303 280, n2 := bits x 343 320, n3 := bits x 367 344,
    s0 := signed 32 (bits x 415 384), s1 := signed 32 (bits x 447 416), s2 := signed 32 (bits x 479 448),
    s3 := signed 32 (bits x 511 480),
    rsvd0 := !bit x 55 && bits x 127 116 == 0 && bits x 159 144 == 0 && bits x 255 248 == 0 && bits x 319 316 == 0 &&
      bits x 383 380 == 0 }
def Desc.ofWords (ws : List W64) : Desc := Desc.ofBits (ws.zipIdx.foldl (fun a w => a + w.1.toNat * 2 ^ (64 * w.2)) 0)

/-- The fields of a descriptor at their places in Table TD-1, reserved bits 0. -/
def Desc.toBits (d : Desc) : Nat :=
  let str (s : Int) (i : Nat) := unsigned 32 s * 2 ^ i
  d.base + d.space * 2 ^ 52 + d.dom * 2 ^ 56 + d.aux * 2 ^ 64 + d.ety * 2 ^ 128 + d.rank * 2 ^ 133 + d.layout * 2 ^ 136 +
  b2n d.trans * 2 ^ 138 + b2n d.bscaled * 2 ^ 139 + b2n d.bshape * 2 ^ 140 + b2n d.ovfNan * 2 ^ 141 + b2n d.expMode * 2 ^ 142 +
  b2n d.expTgt * 2 ^ 143 + d.tensor * 2 ^ 160 + d.fill * 2 ^ 192 + d.padLo0 * 2 ^ 224 + d.padHi0 * 2 ^ 236 + d.n0 * 2 ^ 256 +
  d.n1 * 2 ^ 280 + d.padLo1 * 2 ^ 304 + d.n2 * 2 ^ 320 + d.n3 * 2 ^ 344 + d.padHi1 * 2 ^ 368 + str d.s0 384 + str d.s1 416 +
  str d.s2 448 + str d.s3 480

/-- A descriptor copy as a pattern `x` in its bits leaves it (R246). -/
def Desc.flip (d : Desc) (x : Nat) : Desc := Desc.ofBits (d.toBits ^^^ x)

/-- The element type; BYTE for an undefined code (the load checks reject those first). -/
def Desc.ty (d : Desc) : ETy := (etyOf d.ety).getD .byte

/-- Element size in bytes, 1 for the packed types (Table TD-3). -/
def Desc.esz (d : Desc) : Nat := d.ty.size

/-- Stored size of a dimension: a dimension at or above `RANK` counts as 1 (R186). -/
def Desc.sz (d : Desc) (k : Nat) : Nat :=
  if d.rank ≤ k then 1 else match k with | 0 => d.n0 | 1 => d.n1 | 2 => d.n2 | _ => d.n3

def Desc.str (d : Desc) (k : Nat) : Int := match k with | 0 => d.s0 | 1 => d.s1 | 2 => d.s2 | _ => d.s3

/-- Padded extents (R189). -/
def Desc.p0 (d : Desc) : Nat := d.padLo0 + d.sz 0 + d.padHi0
def Desc.p1 (d : Desc) : Nat := d.padLo1 + d.sz 1 + d.padHi1

/-- Logical sizes N_0 - N_3 (R189). -/
def Desc.N0 (d : Desc) : Nat := if d.trans then d.p1 else d.p0
def Desc.N1 (d : Desc) : Nat := if d.trans then d.p0 else d.p1
def Desc.N2 (d : Desc) : Nat := d.sz 2
def Desc.N3 (d : Desc) : Nat := d.sz 3

/-- Number of logical elements. -/
def Desc.count (d : Desc) : Nat := d.N0 * d.N1 * d.N2 * d.N3

/-- A tensor is empty when any logical size is 0 (R201). -/
def Desc.empty (d : Desc) : Bool := d.count == 0

/-- Same logical sizes (R190). -/
def Desc.sameSizes (a b : Desc) : Bool := a.N0 == b.N0 && a.N1 == b.N1 && a.N2 == b.N2 && a.N3 == b.N3

/-- A stored index; `none` for an element out of bounds. -/
structure Ix where
  i0 : Nat
  i1 : Nat
  i2 : Nat
  i3 : Nat
deriving DecidableEq, Repr

/-- The stored index of a logical index (R189). -/
def Desc.stored (d : Desc) (j0 j1 j2 j3 : Nat) : Option Ix :=
  let p0 := if d.trans then j1 else j0
  let p1 := if d.trans then j0 else j1
  if d.padLo0 ≤ p0 ∧ p0 < d.padLo0 + d.sz 0 ∧ d.padLo1 ≤ p1 ∧ p1 < d.padLo1 + d.sz 1 ∧ j2 < d.sz 2 ∧ j3 < d.sz 3 then
    some ⟨p0 - d.padLo0, p1 - d.padLo1, j2, j3⟩
  else none

/-- The logical index of a linear index (R190). -/
def Desc.unlin (d : Desc) (l : Nat) : Nat × Nat × Nat × Nat :=
  (l % d.N0, l / d.N0 % d.N1, l / (d.N0 * d.N1) % d.N2, l / (d.N0 * d.N1 * d.N2))

/-- The stored index of linear index `l`. -/
def Desc.at (d : Desc) (l : Nat) : Option Ix := let j := d.unlin l; d.stored j.1 j.2.1 j.2.2.1 j.2.2.2

/-- Element offset of a stored element in LINEAR layout (R192). -/
def Desc.linOff (d : Desc) (i : Ix) : Int := i.i0 * d.s0 + i.i1 * d.s1 + i.i2 * d.s2 + i.i3 * d.s3

/-- Byte offset from the base, and the nibble for INT4: layouts LINEAR, BLOCK64, DIAG32 (R192-R194); BITMAP gives the
byte of its 64-bit word (R124). -/
def Desc.byteOff (d : Desc) (i : Ix) : Int × Nat :=
  let e : Int := d.esz
  let hi : Int := i.i2 * d.s2 + i.i3 * d.s3
  if d.ty = .bitmap then (8 * (i.i1 * ceilDiv d.n0 64 + i.i0 / 64), i.i0 % 64)
  else if d.space = 2 then  -- a stream delivers its elements in ascending λ (R187)
    let l := i.i0 + d.n0 * i.i1
    if d.ty = .int4 then ((l / 2 : Nat), l % 2) else (e * (l : Nat), 0)
  else if d.layout = 1 then
    (e * (hi + (i.i1 / 64 : Nat) * d.s1 + (i.i0 / 64 : Nat) * d.s0 + 64 * (i.i1 % 64 : Nat) + (i.i0 % 64 : Nat)), 0)
  else if d.layout = 2 then
    let r := i.i1 % 32
    let c := i.i0 % 32
    (e * (hi + (i.i1 / 32 : Nat) * d.s1 + (i.i0 / 32 : Nat) * d.s0)
      + ((r * d.esz / 16 * 512 + (r + c) % 32 * 16 + r * d.esz % 16 : Nat) : Int), 0)
  else if d.ty = .int4 then (d.linOff i / 2, (d.linOff i % 2).toNat)
  else (e * d.linOff i, 0)

/-- The dense stored index sigma, which numbers blocks of 32 (R198). -/
def Desc.sigma (d : Desc) (i : Ix) : Nat :=
  if d.bshape then i.i1 + d.sz 1 * (i.i0 + d.sz 0 * (i.i2 + d.sz 2 * i.i3))
  else i.i0 + d.sz 0 * (i.i1 + d.sz 1 * (i.i2 + d.sz 2 * i.i3))

/-- The stored index of a dense stored index. -/
def Desc.unsigma (d : Desc) (g : Nat) : Ix :=
  if d.bshape then
    ⟨g / d.sz 1 % d.sz 0, g % d.sz 1, g / (d.sz 0 * d.sz 1) % d.sz 2, g / (d.sz 0 * d.sz 1 * d.sz 2)⟩
  else ⟨g % d.sz 0, g / d.sz 0 % d.sz 1, g / (d.sz 0 * d.sz 1) % d.sz 2, g / (d.sz 0 * d.sz 1 * d.sz 2)⟩

/-- The linear index of a stored index. -/
def Desc.lamOf (d : Desc) (i : Ix) : Nat :=
  let p0 := i.i0 + d.padLo0
  let p1 := i.i1 + d.padLo1
  let j0 := if d.trans then p1 else p0
  let j1 := if d.trans then p0 else p1
  j0 + d.N0 * (j1 + d.N1 * (i.i2 + d.N2 * i.i3))

/-- Number of stored elements. -/
def Desc.stCount (d : Desc) : Nat := d.sz 0 * d.sz 1 * d.sz 2 * d.sz 3

/-- Does the descriptor use an area at `AUX_BASE`, and how long is it in bytes (R199)? -/
def Desc.auxLen (d : Desc) : Nat :=
  if d.space = 3 then 32
  else if d.bscaled then ceilDiv d.stCount 32
  else if d.ty.isInt then
    (if d.expMode then 4 * ceilDiv d.stCount 32 else if d.expTgt then 32 else 16)
  else 0

/-- Does the descriptor name an area at `AUX_BASE`, be it an empty one (R199)? -/
def Desc.usesAux (d : Desc) : Bool := d.space == 3 || d.bscaled || d.ty.isInt

/-- The footprint of the elements: lowest byte and length (R208); blocked layouts use whole blocks; a bitmap its words. -/
def Desc.footprint (d : Desc) (base : Int) : Int × Int :=
  let e : Int := d.esz
  let lo (s : Int) (n : Nat) : Int := min 0 (s * ((n : Int) - 1))
  let hi (s : Int) (n : Nat) : Int := max 0 (s * ((n : Int) - 1))
  if d.stCount = 0 then (base, 0)
  else if d.ty = .bitmap then (base, 8 * (ceilDiv d.n0 64 * d.sz 1 : Nat))
  else if d.layout = 1 ∨ d.layout = 2 then
    let b := if d.layout = 1 then 64 else 32
    let l := lo d.s2 (d.sz 2) + lo d.s3 (d.sz 3) + lo d.s0 (ceilDiv (d.sz 0) b) + lo d.s1 (ceilDiv (d.sz 1) b)
    let h := hi d.s2 (d.sz 2) + hi d.s3 (d.sz 3) + hi d.s0 (ceilDiv (d.sz 0) b) + hi d.s1 (ceilDiv (d.sz 1) b)
    (base + e * l, e * (h - l + (b * b : Nat)))
  else
    let l := lo d.s0 (d.sz 0) + lo d.s1 (d.sz 1) + lo d.s2 (d.sz 2) + lo d.s3 (d.sz 3)
    let h := hi d.s0 (d.sz 0) + hi d.s1 (d.sz 1) + hi d.s2 (d.sz 2) + hi d.s3 (d.sz 3)
    if d.ty = .int4 then (base + l / 2, h / 2 - l / 2 + 1)
    else (base + e * l, e * (h - l + 1))

/-- Insert a pair in ascending order of |stride|, after equal ones. -/
def insStride (p : Nat × Nat) : List (Nat × Nat) → List (Nat × Nat)
  | [] => [p]
  | q :: t => if p.1 < q.1 then p :: q :: t else q :: insStride p t

/-- The injectivity test of a written descriptor (R204). -/
def Desc.injective (d : Desc) : Bool :=
  let c (k b : Nat) := ceilDiv (d.sz k) b
  let ps : List (Int × Nat) :=
    if d.layout = 1 then [(1, 4096), (d.s0, c 0 64), (d.s1, c 1 64), (d.s2, d.sz 2), (d.s3, d.sz 3)]
    else if d.layout = 2 then [(1, 1024), (d.s0, c 0 32), (d.s1, c 1 32), (d.s2, d.sz 2), (d.s3, d.sz 3)]
    else [(d.s0, d.sz 0), (d.s1, d.sz 1), (d.s2, d.sz 2), (d.s3, d.sz 3)]
  let ps := (ps.filter (fun p => p.2 != 1)).foldl (fun l p => insStride (p.1.natAbs, p.2) l) []
  (ps.foldl (fun (a : Bool × Int) p => (a.1 && decide (1 + a.2 ≤ (p.1 : Int)), a.2 + (p.1 : Int) * ((p.2 : Int) - 1))) (true, 0)).1

/-- The unused bits of `FILL` are 0 (R200). -/
def Desc.fillOk (d : Desc) : Bool :=
  match d.ty with
  | .zf8 | .zg8 | .byte => decide (d.fill < 2 ^ 8)
  | .zf16 | .zg16 | .b16 | .bf16 | .zm32 => decide (d.fill < 2 ^ 16)
  | .za32 | .b32 | .u32 => true
  | .u64 => decide (d.fill = 0)
  | .bitmap => decide (d.fill < 2)
  | .int8 => bits d.fill 23 (if d.expTgt then 16 else 8) == 0
  | .int4 => bits d.fill 23 (if d.expTgt then 16 else 8) == 0 && bits d.fill 31 28 == 0

/-- The fill value as a pattern of what an engine receives (R200): for INT types that of the expansion target, for ZM32
the HIGH value. -/
def Desc.fillPat (d : Desc) : Nat := if d.ty.isInt then (if d.expTgt then d.fill % 65536 else d.fill % 256) else d.fill

/-- The exact fill value (R200): no block scale; ZM32 by its ZF16 HIGH value; INT types by the expansion target. -/
def Desc.fillVal (d : Desc) : Ex :=
  match d.ty with
  | .zm32 => ETy.val .zf16 (d.fill % 65536)
  | .int4 | .int8 => ETy.val (if d.expTgt then .zf16 else .zf8) d.fillPat
  | t => t.val d.fill

end Sys2Proof.Machine
end

