-- ==== Sys2Proof/Machine/MemOps.lean ====
section
/-!
DEFINITION. Stack memory and tile stores: reads through the codes (R224-R226, R238-R248), writes with fresh check bits,
poison (R247-R253), upsets. The stack side first.
-/
namespace Sys2Proof.Machine

def byteReset (_ : Nat) : Byte := 0#8
def wordReset (_ : Nat) : W64 := 0#64
def errReset (_ : Nat) : BitVec 80 := 0#80
def listReset (_ : Nat) : List Nat := []

/-- One byte past the last stack (R210). -/
def stackEnd : Nat := 0x018000000000

/-- The memory's canonical form: every table strictly rising with no entry equal to what an unlisted key holds. -/
def Mem.wf (m : Mem) : Bool :=
  Tab.wf byteReset m.stack && Tab.wf wordReset m.valid && Tab.wf boolReset m.vpoison && Tab.wf byteReset m.serr &&
  Tab.wf byteReset m.tile && Tab.wf boolReset m.tpoison && Tab.wf errReset m.terr && Tab.wf listReset m.wbq

def State.setMem (s : State) (m : Mem) : State := { s with mem := m }

/-! ### Valid map -/

/-- The 8-byte pattern of a poisoned block as bytes (R247): 0x7FC0_000F twice. -/
def poisonByte (i : Nat) : Byte :=
  match i % 4 with | 0 => 0x0F#8 | 1 => 0x00#8 | 2 => 0xC0#8 | _ => 0x7F#8

/-- Is the valid-map word of block `b` in its recovery form (R253)? -/
def Mem.vp (m : Mem) (b : Nat) : Bool := Tab.get boolReset m.vpoison (b / 64)

/-- Bit of block `b` in its valid-map word (R224). -/
def Mem.vbit (m : Mem) (b : Nat) : Bool := fbit (Tab.get wordReset m.valid (b / 64)) (b % 64)

def Mem.setVbit (m : Mem) (b : Nat) (v : Bool) : Mem :=
  { m with valid := Tab.set wordReset m.valid (b / 64) (setFld (Tab.get wordReset m.valid (b / 64)) (b % 64) (b % 64) (b2n v)) }

/-- The block reads as poisoned because its valid-map word was lost (R226). -/
def Mem.mapPoisoned (m : Mem) (b : Nat) : Bool := m.vp b && m.vbit b

/-- The block holds data: its bit is 1, or its word recovers and it has been covered (R253). -/
def Mem.blkValid (m : Mem) (b : Nat) : Bool := if m.vp b then !m.vbit b else m.vbit b

/-- Once every bit of a recovering valid-map word is clear, the word is rewritten all ones with POISON 0 (R253). -/
def Mem.settle (m : Mem) (w : Nat) : Mem :=
  if Tab.get boolReset m.vpoison w && Tab.get wordReset m.valid w == 0#64 then
    { m with valid := Tab.set wordReset m.valid w (~~~0#64), vpoison := Tab.set boolReset m.vpoison w false }
  else m

/-- The block holds data from now on. -/
def Mem.markValid (m : Mem) (b : Nat) : Mem :=
  if m.vp b then (m.setVbit b false).settle (b / 64) else m.setVbit b true

/-- What an uncorrectable valid-map word becomes (R253): every data bit 1, `POISON` 1. -/
def Mem.loseMap (m : Mem) (w : Nat) : Mem :=
  { m with valid := Tab.set wordReset m.valid w (~~~0#64), vpoison := Tab.set boolReset m.vpoison w true }

/-- A valid-map word as an error leaves it that its decoder took for a good word (R246). -/
def Mem.flipMap (m : Mem) (w left : Nat) : Mem :=
  { m with valid := Tab.set wordReset m.valid w (Tab.get wordReset m.valid w ^^^ BitVec.ofNat 64 (left % 2 ^ 64))
           vpoison := Tab.set boolReset m.vpoison w (Tab.get boolReset m.vpoison w != bit left 78) }

/-- Take the errors of an SRAM word out of the list: they have been decoded. -/
def State.dropErr (s : State) (r : (ScrubStore × Nat) × BitVec 80) : State :=
  { s with integ := { s.integ with errs := s.integ.errs.erase r } }

/-- The number of a store in `Integ`: a stack, a tile store, a kind of other SRAM (Table DI-6). -/
def scrubKey : ScrubStore → Nat
  | .stack s => s
  | .tile t => 32 + t
  | .validMap _ => 128
  | .queue _ => 129
  | .cocoon _ => 130
  | .context _ => 131
  | .update _ => 132
  | .module => 133
  | .leaves _ => 134
  | .port _ => 135
  | .chimney => 136

def wordsReset (_ : Nat) : List (ScrubStore × Nat) := []

/-- A word leaves the write-back queue of its kind of SRAM: it has been written. -/
def State.unqueue (s : State) (w : ScrubStore × Nat) : State :=
  let k := scrubKey w.1
  { s with integ := { s.integ with wbq := Tab.set wordsReset s.integ.wbq k ((Tab.get wordsReset s.integ.wbq k).filter (· != w)) } }

/-- A word that has been corrected keeps its error `f` in the array until it is written back: it enters the write-back queue of 16 entries of
its kind of SRAM while that has a place (R246; log entry 98). -/
def State.holdErr (s : State) (w : ScrubStore × Nat) (f : Nat) : State :=
  let k := scrubKey w.1
  let q := Tab.get wordsReset s.integ.wbq k
  { s with integ := { s.integ with
      errs := s.integ.errs ++ [(w, BitVec.ofNat 80 f)]
      wbq := if q.length < 16 && !q.contains w then Tab.set wordsReset s.integ.wbq k (q ++ [w]) else s.integ.wbq } }

/-- A correction of an SRAM word outside the tile stores is counted (R246). -/
def State.sramFixed (s : State) : State := (s.bump cSramCe 1).corrected 1 0 0 { kind := 3, acc := 1 }

/-- The decoder of a valid map reads a word that holds errors (R226, R246, R253). -/
def State.mapWord (s0 : State) (r : (ScrubStore × Nat) × BitVec 80) (w : Nat) : State :=
  let s := s0.dropErr r
  match bchDecode r.2.toNat with
  | .bad => ((s.unqueue r.1).bump cSramUe 1).setMem (s.mem.loseMap w)
  | .fixed f => (s.sramFixed.holdErr r.1 f).setMem (s.mem.flipMap w (r.2.toNat ^^^ f))
  | .clean => (s.unqueue r.1).setMem (s.mem.flipMap w r.2.toNat)

/-- The valid-map word of a block is written, with fresh check bits: no error of it is left. -/
def State.wroteMap (s : State) (b : Nat) : State :=
  match s.integ.errs.find? (fun r => r.1 == (.validMap (b / 64), 0)) with
  | some r => (s.dropErr r).unqueue r.1
  | none => s

/-- An access to a block reads its valid-map word through the decoder. -/
def State.seeMap (s : State) (b : Nat) : State :=
  match s.integ.errs.find? (fun r => r.1 == (.validMap (b / 64), 0)) with
  | some r => s.mapWord r (b / 64)
  | none => s

/-- Accesses to `n` blocks from block `b` on read their valid-map words. -/
def State.seeMaps (s : State) (b n : Nat) : State :=
  s.integ.errs.foldl (fun t r =>
    match r.1 with
    | (.validMap w, _) => if b ≤ 64 * w + 63 ∧ 64 * w < b + n then t.mapWord r w else t
    | _ => t) s

/-- The valid-map words of `n` blocks from block `b` on are written. -/
def State.wroteMaps (s : State) (b n : Nat) : State :=
  s.integ.errs.foldl (fun t r =>
    match r.1 with
    | (.validMap w, _) => if b ≤ 64 * w + 63 ∧ 64 * w < b + n then (t.dropErr r).unqueue r.1 else t
    | _ => t) s

/-! ### Decoding a block -/

/-- The errors in the 16 codewords of a block. -/
def Mem.blkErrs (m : Mem) (b : Nat) : List (List Nat) :=
  (List.range 16).map (fun n => (List.range 18).map (fun k => (Tab.get byteReset m.serr (18 * (16 * b + n) + k)).toNat))

/-- Does a block hold any error? -/
def Mem.hasErr (m : Mem) (b : Nat) : Bool := m.serr.any (fun e => decide (288 * b ≤ e.1 ∧ e.1 < 288 * b + 288))

def Mem.clearErr (m : Mem) (b : Nat) : Mem := { m with serr := Tab.dropRange m.serr (288 * b) 288 }

/-- The die marked failed in a stack (R242). -/
def State.marked (s : State) (st : Nat) : Option Nat :=
  if s.rb (rDieFailed st) 5 then some (s.rf (rDieFailed st) 4 0) else none

/-- The outcome of decoding a block, and what remains wrong in the delivered data. -/
def State.decode (s : State) (b : Nat) : BlkOut × List (List Nat) :=
  if s.mem.hasErr b then
    blockDecode (s.marked (b / 2 ^ 28)) (s.rb (rDieFailed (b / 2 ^ 28)) 8) (s.mem.blkErrs b)
  else (.clean, [])

/-- Byte `dpa` as its block delivers it: 0 in an invalid block, stored data with what a wrong correction left. -/
def State.dataByte (s : State) (dpa : Nat) : Byte :=
  let b := dpa / 256
  if s.mem.blkValid b then
    let raw := Tab.get byteReset s.mem.stack dpa
    if s.mem.hasErr b then
      raw ^^^ BitVec.ofNat 8 (((s.decode b).2.getD (dpa % 256 / 16) []).getD (dpa % 16) 0)
    else raw
  else 0#8

/-- Does the block match the poison pattern, or is its valid-map word lost (R226, R247)? -/
def State.blkPoisoned (s : State) (b : Nat) : Bool :=
  s.mem.mapPoisoned b ||
  (s.mem.blkValid b && (List.range 256).all (fun i => s.dataByte (256 * b + i) == poisonByte i))

/-- Store bytes in a block, from `dpa` on. -/
def Mem.putBytes (m : Mem) (dpa : Nat) (bs : List Byte) : Mem := { m with stack := Tab.setList byteReset m.stack dpa bs }

/-- Write the poison pattern to a block (R247, R248). -/
def Mem.poisonBlk (m : Mem) (b : Nat) : Mem :=
  ((m.putBytes (256 * b) ((List.range 256).map poisonByte)).clearErr b).markValid b

/-- The attempts of a block's crossings that bring errors, in order (R239), as the environment gives them. -/
def tries (e : Env) (b : Nat) : List (List Byte) := (e.crc.filter (fun c => c.1 / 256 == b)).map (·.2)

/-- What a unit of the base die meets: its reads do not cross the interface that R239 guards. -/
def inBase (e : Env) : Env := { e with crc := [] }

/-- The two crossings of a block that is read: the second is that of the re-read of R240, after a first that failed. -/
def crossRead (e : Env) (b : Nat) : Cross × Cross :=
  let c := crossOnce (tries e b)
  (c, if c.ok then c else crossOnce c.rest)

/-- A byte that a crossing has changed unseen. -/
def Cross.err (c : Cross) (i : Nat) : Byte := c.left.getD i 0#8

/-- Retries that a crossing has made, counted and reported (R239). -/
def State.retries (s : State) (b : Nat) (c : Cross) (by' : By) : State :=
  if c.bad = 0 then s else (s.bump (cXferRetry (b / 2 ^ 28)) (min c.bad 3)).corrected 3 (256 * b) 2 by'

/-- Read a block: its valid-map word, the decoder where it holds data (R225, R238), the interface CRC with up to 3 retries (R239), one
re-read (R240), the counters (R241), poison where both reads fail (R248). Answers whether the block reads as poisoned. -/
def State.readBlk (s0 : State) (e : Env) (b : Nat) (by' : By) : State × Bool :=
  let st := b / 2 ^ 28
  let s := s0.seeMap b
  let c := crossRead e b
  let s := s.retries b c.1 by'
  let s := if c.1.ok then s else s.retries b c.2 by'
  let d := if s.mem.mapPoisoned b || !s.mem.blkValid b then .clean else (s.decode b).1
  if !c.2.ok || d == .bad then
    ({ s.bump (cRsUe st) 1 with mem := s.mem.poisonBlk b }, true)
  else
    let s := match d with
      | .fixed k => (s.bump (cRsCe st k) 1).corrected 2 (256 * b) 2 by'
      | .erased => (s.bump (cRsErase st) 1).corrected 2 (256 * b) 2 by'
      | _ => s
    (s, s.blkPoisoned b)

/-- Fold what decoding left into the stored data and write fresh check bits: a block that is written back. -/
def State.normBlk (s : State) (b : Nat) : State :=
  if s.mem.hasErr b then
    let bs := (List.range 256).map (fun i => s.dataByte (256 * b + i))
    { s with mem := (s.mem.putBytes (256 * b) bs).clearErr b }
  else s

/-- A block whose bit is 0 holds zeros for what is merged into it (R225), whatever its dies still store. -/
def Mem.fresh (m : Mem) (b : Nat) : Mem :=
  if m.blkValid b then m else { m with stack := Tab.dropRange m.stack (256 * b) 256 }

/-- Store bytes `(offset in block, byte)` in a block with fresh check bits; its bit is set (R225). -/
def Mem.storeBlk (m : Mem) (b : Nat) (bs : List (Nat × Byte)) : Mem :=
  ((bs.foldl (fun m p => m.putBytes (256 * b + p.1) [p.2]) (m.fresh b)).clearErr b).markValid b

/-- Write bytes `(offset in block, byte)` to a block whose old data has been decoded (R225). -/
def State.mergeBlk (s0 : State) (b : Nat) (bs : List (Nat × Byte)) : State :=
  let s := s0.normBlk b
  { s with mem := s.mem.storeBlk b bs }

/-- Write bytes `(offset in block, byte)` to block `b` (R225, R249): a write of part of a poisoned block leaves it
unchanged and is a read of poison, which the answer says. -/
def State.writeBlk (s0 : State) (b : Nat) (bs : List (Nat × Byte)) (by' : By) : State × Bool :=
  let s := s0.seeMap b
  if bs.length = 256 then ({ s with mem := s.mem.storeBlk b bs }, false)
  else
    let r := s.readBlk {} b by'
    if r.2 then (r.1, true) else (r.1.mergeBlk b bs, false)

/-- A VCLEAR that reaches a block (R226, R227, R253): it reads as zeros from now on. -/
def Mem.clearBlk (m : Mem) (b : Nat) : Mem :=
  let m := { m with stack := Tab.dropRange m.stack (256 * b) 256 }.clearErr b
  if m.vp b then (m.setVbit b false).settle (b / 64) else m.setVbit b false

/-- VCLEAR of `n` whole blocks from block `b`: listed blocks and words only are touched, the others are clear already. -/
def Mem.clearBlks (m : Mem) (b n : Nat) : Mem :=
  let inRange (k : Nat) := decide (b ≤ k ∧ k < b + n)
  let m := { m with stack := Tab.dropRange m.stack (256 * b) (256 * n), serr := Tab.dropRange m.serr (288 * b) (288 * n) }
  (m.valid.map (·.1)).foldl (fun m w =>
    if b ≤ 64 * w + 63 ∧ 64 * w < b + n then
      (List.range 64).foldl (fun m i => if inRange (64 * w + i) then m.clearBlk (64 * w + i) else m) m
    else m) m

/-! ### Tile stores -/

/-- Words of 8 bytes in a tile store (6 MiB). -/
def tileWords : Nat := 786432
def tileBytes : Nat := 0x600000

/-- The 64 stored data bits of word `k`. -/
def Mem.rawWord (m : Mem) (k : Nat) : W64 := BitVec.ofNat 64 (leNat (Tab.getList byteReset m.tile (8 * k) 8))

/-- Bank of a word: byte offset A lies in bank (A div 16) mod 32 (R212). -/
def bankOf (k : Nat) : Nat := 32 * (k / tileWords) + (k % tileWords * 8 / 16) % 32

/-- Write a whole word with fresh check bits; a pending write-back of it is dropped (R246, R252). -/
def Mem.putWord (m : Mem) (k : Nat) (v : W64) (p : Bool) : Mem :=
  { m with
    tile := Tab.setList byteReset m.tile (8 * k) (leBytes 8 (if p then 0 else v.toNat))
    tpoison := Tab.set boolReset m.tpoison k p
    terr := Tab.set errReset m.terr k 0#80
    wbq := if (Tab.get listReset m.wbq (bankOf k)).contains k then
        Tab.set listReset m.wbq (bankOf k) ((Tab.get listReset m.wbq (bankOf k)).filter (· != k)) else m.wbq }

/-- The 80 bits that word `k` of the tile stores holds (R244). -/
def Mem.storedWord (m : Mem) (k : Nat) : BitVec 80 :=
  sramStored (m.rawWord k) (Tab.get boolReset m.tpoison k) ^^^ Tab.get errReset m.terr k

/-- Word `k` as the SRAM decoder delivers it, with no effect: data, POISON, and what the decoder saw. -/
def Mem.seeWord (m : Mem) (k : Nat) : W64 × Bool × BchOut :=
  let e := (Tab.get errReset m.terr k).toNat
  let raw := m.rawWord k
  let p := Tab.get boolReset m.tpoison k
  if e = 0 then (raw, p, .clean)
  else
    match bchDecode e with
    | .bad => (0#64, true, .bad)
    | o =>
      let flip := match o with | .fixed f => f | _ => 0
      let left := e ^^^ flip
      (raw ^^^ BitVec.ofNat 64 (left % 2 ^ 64), p != bit left 78, o)

/-- The address of a tile-store word in the TILE encoding of Table TD-2. -/
def wordAddr (k : Nat) : Nat := k % tileWords * 8 + (k / tileWords) % 48 * 2 ^ 23 + k / tileWords / 48 * 2 ^ 29

/-- Read a tile-store word (R246, R248): a correction is counted and queued for write-back while its bank's queue has a
place; an uncorrectable word is written back poisoned. -/
def State.readWord (s : State) (k : Nat) (by' : By) : State × W64 × Bool :=
  match s.mem.seeWord k with
  | (v, p, .clean) => (s, v, p)
  | (v, p, .fixed _) =>
    let s := (s.bump cSramCe 1).corrected 1 (wordAddr k) 3 by'
    let q := Tab.get listReset s.mem.wbq (bankOf k)
    let m := if q.length < 16 && !q.contains k then { s.mem with wbq := Tab.set listReset s.mem.wbq (bankOf k) (q ++ [k]) } else s.mem
    (s.setMem m, v, p)
  | (_, _, .bad) => ((s.bump cSramUe 1).setMem (s.mem.putWord k 0#64 true), 0#64, true)

/-- Write bytes `(place in word, byte, poison)` to word `k`: a write of part of a poisoned word leaves it poisoned
(R252: only the write of a whole word removes poison; log entry 22). -/
def State.writeWord (s : State) (k : Nat) (bs : List (Nat × Byte × Bool)) (by' : By) : State :=
  let p := bs.any (·.2.2)
  if p then s.setMem (s.mem.putWord k 0#64 true)
  else if bs.length = 8 then
    s.setMem (s.mem.putWord k (BitVec.ofNat 64 (leNat (bs.map (·.2.1)))) false)
  else
    let r := s.readWord k by'
    if r.2.2 then r.1
    else
      let v := bs.foldl (fun w b => setFld w (8 * b.1 + 7) (8 * b.1) b.2.1.toNat) r.2.1
      r.1.setMem (r.1.mem.putWord k v false)

/-- Zero a tile store, check bits included (R214, R245). -/
def Mem.zeroTile (m : Mem) (t : Nat) : Mem :=
  { m with
    tile := Tab.dropRange m.tile (t * tileBytes) tileBytes
    tpoison := Tab.dropRange m.tpoison (t * tileWords) tileWords
    terr := Tab.dropRange m.terr (t * tileWords) tileWords
    wbq := Tab.dropRange m.wbq (32 * t) 32 }

/-! ### Upsets (physical errors in stored data) -/

def Mem.xorSym (m : Mem) (cw die : Nat) (v : Byte) : Mem :=
  { m with serr := Tab.set byteReset m.serr (18 * cw + die) (Tab.get byteReset m.serr (18 * cw + die) ^^^ v) }

/-- An upset strikes stored data. A symbol of an invalid block is consulted by no read (R225), so it is not kept. -/
def Mem.upset (m : Mem) : Upset → Mem
  | .stackSym dpa die v => if die < 18 ∧ dpa < stackEnd ∧ m.blkValid (dpa / 256) then m.xorSym (dpa / 16) die v else m
  | .stackBlk dpa die v =>
    if die < 18 ∧ dpa < stackEnd ∧ m.blkValid (dpa / 256) then
      (List.range 16).foldl (fun m n => m.xorSym (16 * (dpa / 256) + n) die v) m
    else m
  | .tileWord t off pat =>
    if t < 96 ∧ off < tileBytes then
      let k := t * tileWords + off / 8
      { m with terr := Tab.set errReset m.terr k (Tab.get errReset m.terr k ^^^ pat) }
    else m
  | .sramWord _ _ _ => m
  | .datapath _ => m
  | .crossing _ _ => m

/-- An upset strikes a word of other SRAM; a pattern that cancels an older one leaves none. -/
def Integ.upset (g : Integ) : Upset → Integ
  | .sramWord w i pat =>
    let n := match w with
      | .validMap _ => 0
      | _ => i
    let old := ((g.errs.find? (fun r => r.1 == (w, n))).map (·.2)).getD 0#80
    let rest := g.errs.filter (fun r => r.1 != (w, n))
    { g with errs := if old ^^^ pat = 0#80 then rest else rest ++ [((w, n), old ^^^ pat)] }
  | .datapath u => { g with resid := g.resid ++ [u] }
  | .crossing dpa pat => { g with cross := g.cross ++ [(dpa, pat)] }
  | _ => g

/-- The upsets of an environment strike, in order. -/
def State.upsets (s : State) (e : Env) : State :=
  { s with mem := e.upsets.foldl Mem.upset s.mem, integ := e.upsets.foldl Integ.upset s.integ }

end Sys2Proof.Machine
end

