-- ==== Sys2Proof/Machine/Ops.lean ====
section
/-!
DEFINITION. Shared operations of the host interface (14_host_rings): tallies (R408, R409), completion records (R404-R407),
the ring status block (R406), pending interrupts (R414).
-/
namespace Sys2Proof.Machine

/-! ### Tallies -/

/-- Does a counter value satisfy a WAIT (R410)? -/
def Cmd.waitMet (c : Cmd) (v : BitVec 48) : Bool := decide ((v.toNat + 2 ^ 48 - fld (c.op 0) 47 0) % 2 ^ 48 < 2 ^ 47)

/-- WAITs at the heads of their queues, on tally t, that a value satisfies. -/
def State.waitsMet (s : State) (t : Nat) (v : BitVec 48) : List Nat :=
  s.pipe.queues.filterMap (fun e => e.2.ents.head?.bind (fun h =>
    if h.cmd.opcode == 0x01 && fld (h.cmd.op 1) 16 0 == t && h.cmd.waitMet v then some h.cmd.id else none))

/-- SIGNAL semantics: add an amount modulo 2^48. Every WAIT that the value satisfies, or has satisfied, is released (R409, R410). -/
def State.signalTally (s : State) (t a : Nat) : State :=
  let v := s.tally t + BitVec.ofNat 48 a
  let u := s.setTally t v
  { u with pipe := { u.pipe with met := s.waitsMet t (s.tally t) ++ s.waitsMet t v ++ u.pipe.met } }

/-- Does tally `t` lie in a block enabled for domain `d` (R408)? -/
def State.tallyOk (s : State) (d t : Nat) : Bool :=
  s.rb (rTallyOwner (t / 512)) 8 && s.rf (rTallyOwner (t / 512)) 7 0 == d

/-- Signal a tally for a domain: a tally outside the domain's enabled blocks is counted instead (R405). -/
def State.signalFor (s : State) (d t a : Nat) : State :=
  if s.tallyOk d t then s.signalTally t a else s.bump cTallyWriteErr 1

/-! ### Rings -/

/-- Length of a command ring and of a completion ring (Table HR-3). -/
def State.ringLen (s : State) (r : Nat) : Nat := 2 ^ s.rf (rRingCfg r) 20 16
def State.cplLen (s : State) (c : Nat) : Nat := 2 ^ s.rf (rCplCfg c) 20 16

/-- Difference of two free-running 32-bit indices (R401). -/
def idxSub (a b : Nat) : Nat := (a + 2 ^ 32 - b % 2 ^ 32) % 2 ^ 32

/-- Slots reserved on a completion ring: dispatched commands without a record (R407). -/
def State.reserved (s : State) (c : Nat) : Nat :=
  ((List.range 160).map (fun q => ((s.queue q).ents.filter (fun h => h.cmd.cpl == c)).length)).sum +
  (s.runs.filter (fun r => r.cmd.cpl == c)).length

/-- Free slots of a completion ring (R403, R407). -/
def State.freeSlots (s : State) (c : Nat) : Nat :=
  s.cplLen c - idxSub (s.cpl c).pi (s.cpl c).ci - s.reserved c

/-- The ring status block (R406): 64 words of consumer and producer index. -/
def State.statusWords (s : State) : List W64 :=
  (List.range 64).map (fun r => BitVec.ofNat 64 ((s.ring r).ci + (s.cpl r).pi * 2 ^ 32))

/-- Is any command ring enabled? The doorbell block is read only then (R462). -/
def State.anyRing (s : State) : Bool := (List.range 64).any (fun r => s.rb (rRingCfg r) 0)

/-- The ring status block goes to the host (R406), where there is a link for it to go over (log entry 5). -/
def State.writeStatus (s : State) : State :=
  if s.pwr.pcieUp then s.post (.status (s.reg rRingStatusBase).toNat s.statusWords) else s

/-! ### Interrupts -/

/-! ### PCIe -/

/-- What Table HR-1 says that the function supports. -/
structure PcieSupport where
  lanes : Nat := 16
  maxPayload : Nat := 512
  maxReadRequest : Nat := 4096
  tagBits : Nat := 14
  outstanding : Nat := 512
  msixVectors : Nat := 256
  /-- Default completion timeout in microseconds; its ranges are A and B. -/
  timeoutUs : Nat := 1000
  aer : Bool := true
  d3hot : Bool := true
  /-- MSI, INTx, ASPM, SR-IOV, ATS, PRI, PASID, TPH, IDE, resizable BARs. -/
  others : Bool := false
deriving DecidableEq, Repr

def pcieSupport : PcieSupport := {}

/-- A dword of configuration space as the host wrote it, if it did. -/
def State.cfgDword (s : State) (off : Nat) : Option W64 :=
  (s.pwr.cfg.find? (fun e => e.1 == off)).map (fun e => BitVec.ofNat 64 e.2.toNat)

/-- The payload that a posted write may carry: what the host has set in device control, 128 bytes at reset, at most Table HR-1's 512 (log
entry 34). -/
def State.maxPayload (s : State) : Nat :=
  min pcieSupport.maxPayload (128 * 2 ^ (((s.cfgDword (Config.pcieCap + 8)).map (fun w => fld w 7 5)).getD 0))

/-- The most that one read request asks for: what the host has set in device control, 512 bytes at reset, at most Table HR-1's 4,096 (log entry
34). -/
def State.maxReadRequest (s : State) : Nat :=
  min pcieSupport.maxReadRequest (128 * 2 ^ (((s.cfgDword (Config.pcieCap + 8)).map (fun w => fld w 14 12)).getD 2))

/-- The completion timeout in microseconds (Table HR-1): 1 ms, unless the host has chosen a range of A or B in device control 2 (log entry 34);
within a range the shortest. -/
def State.timeoutUs (s : State) : Nat :=
  match (s.cfgDword (Config.pcieCap + 0x28)).map (fun w => fld w 3 0) with
  | some 1 => 50
  | some 2 => 1000
  | some 5 => 16000
  | some 6 => 65000
  | _ => pcieSupport.timeoutUs

/-- Is ECRC generated, and checked (Table HR-1; log entry 34)? -/
def State.ecrcGen (s : State) : Bool := ((s.cfgDword (Config.aerCap + 0x18)).map (fbit · 6)).getD false
def State.ecrcCheck (s : State) : Bool := ((s.cfgDword (Config.aerCap + 0x18)).map (fbit · 8)).getD false

/-- Set a bit of the AER uncorrectable-error status (Table HR-1; log entry 34). -/
def State.aer (s : State) (i : Nat) : State := { s with pwr := { s.pwr with aerUe := s.pwr.aerUe ||| BitVec.ofNat 32 (2 ^ i) } }

/-- AER bits of the standard (log entry 34): poisoned TLP, completion timeout, ECRC error, unsupported request. -/
def aerPoisoned : Nat := 12
def aerTimeout : Nat := 14
def aerEcrc : Nat := 19
def aerUnsupported : Nat := 20

/-- The read requests, as address and length, in which a read that the module posts goes out: none over the size in force, none over a 4 KiB
boundary. -/
def State.readRequests (s : State) (addr len : Nat) : List (Nat × Nat) :=
  let unit := s.maxReadRequest
  let first := addr / unit
  (List.range ((addr + len + unit - 1) / unit - first)).map (fun i =>
    let a := max addr ((first + i) * unit)
    (a, min (addr + len) ((first + i + 1) * unit) - a))

/-- The requests of a read that the module posts. -/
def State.requestsOf (s : State) : Post → List (Nat × Nat)
  | .doorbellRead a => s.readRequests a 512
  | .ringRead _ a n => s.readRequests a (64 * n)
  | _ => []

def State.pbaBit (s : State) (v : Nat) : Bool := s.rb (rMsixPba + 8 * (v / 64)) (v % 64)
def State.setPba (s : State) (v : Nat) (b : Bool) : State := s.setRb (rMsixPba + 8 * (v / 64)) (v % 64) b

/-- The end of a vector's gap: no message before it (R414). -/
def State.gapEnd (s : State) (v : Nat) : Nat :=
  let l := Tab.get natReset s.host.lastMsg v
  if l = 0 then 0 else l - 1 + Tab.get natReset s.host.gap v * 1000

/-- A record with `IRQ` 1 sets its vector pending; in IMMEDIATE mode its message goes out at once, or at the end of the
gap (R414). -/
def State.pend (s : State) (c : Nat) : State :=
  let v := s.rf (rCplCfg c) 31 24
  let imm := s.rb (rCplCfg c) 32
  let s := s.setPba v true
  let s := { s with host := { s.host with immediate := Tab.set boolReset s.host.immediate v imm,
                                          gap := Tab.set natReset s.host.gap v (s.rf (rCplCfg c) 47 40) } }
  if imm && decide (s.gapEnd v ≤ s.now) && !s.masked v then s.writeStatus.sendMsix v else s

/-! ### Completion -/

/-- The four words of a completion record (Table HR-8). -/
def Cmd.recWords (c : Cmd) (r : Res) (rep : Bool) (j len ftime frame : Nat) : List W64 :=
  let n (x : Nat) : W64 := BitVec.ofNat 64 x
  [ n (c.tag + c.idx % 2 ^ 16 * 2 ^ 32 + c.ring * 2 ^ 48 + (if j / len % 2 = 0 then 2 ^ 54 else 0) + c.opcode * 2 ^ 56),
    n (r.status + (if r.status = 0 ∨ r.status = 2 then 0 else r.cause * 2 ^ 8) + r.flags.toNat * 2 ^ 14
      + b2n r.aliased * 2 ^ 18 + b2n rep * 2 ^ 19 + min r.dropped (2 ^ 32 - 1) * 2 ^ 32),
    (if r.status = 4 ∨ r.status = 5 then 0#64 else r.result),
    n (ftime + frame % 2 ^ 40 * 2 ^ 23) ]

/-- Issue the completion record (R405 step 3): none under `QUIET` with STATUS 0 and no flag, none on a ring that is
disabled (log entry 5), none after a Fatal fault (R423). -/
def State.issue (s : State) (c : Cmd) (r : Res) (rep : Bool) : State :=
  if s.flt.fatal then s
  else if fbit (c.word 0) 19 && r.status == 0 && r.flags == {} then s
  else if !s.rb (rCplCfg c.cpl) 0 then s
  else
    let len := s.cplLen c.cpl
    let p := s.cpl c.cpl
    let s := s.post (.completion ((s.reg (rCplBase c.cpl)).toNat + 32 * (p.pi % len)) (c.recWords r rep p.pi len s.ftime s.frameNo))
    let s := s.setCpl c.cpl { p with pi := (p.pi + 1) % 2 ^ 32 }
    if fbit (c.word 0) 18 then s.pend c.cpl else s

/-- Completion (R405): the tally is signalled for STATUS 0-3 (0 only with `SIG_OK_ONLY`), then the record is issued. -/
def State.complete (s : State) (c : Cmd) (r : Res) (rep : Bool) : State :=
  if s.flt.fatal then s
  else
    let w := c.word 0
    let sig := fbit w 16 && decide (r.status ≤ 3) && (!fbit w 17 || r.status == 0)
    let s := if sig then s.signalFor c.dom (fld (c.word 3) 16 0) (fld (c.word 3) 63 32) else s
    s.issue c r rep

/-- A command that leaves its queue unadmitted completes. -/
def State.completeHead (s : State) (q : Nat) (r : Res) : State :=
  match s.head q with
  | none => s
  | some h => (s.popHead q).complete h.cmd r false

/-! ### Units -/

/-- The logical tile on which a unit lies. -/
def Unit'.tile : Unit' → Option Nat
  | .seq t | .hearth t | .skipper t | .tdma t => some t
  | _ => none

/-- `MASTER_KIND` and `MASTER_ID` of a unit (Table FC-3). -/
def State.master (s : State) : Unit' → Nat × Nat
  | .seq t | .hearth t | .skipper t | .tdma t => (1, t / 48 + t % 48 * 2 + s.rf (rTileMap t) 5 0 * 2 ^ 7)
  | .fdma n => (3, 4 + n)
  | .updater => (3, 3)
  | .netif => (3, 2)
  | .sched => (3, 0)

/-- The lowest-numbered FD DMA engine that neither runs a command nor serves one at the head of a ring queue (R393). -/
def State.freeEngine (s : State) : Option Nat :=
  (List.range 16).find? (fun n => !s.runs.any (fun r => r.unit == .fdma n) && !s.pipe.queues.any (fun v => v.2.ents.any (fun h => h.eng == some n)))

/-- The FD DMA engine of the head of a ring queue: the one that it has taken, else the lowest free one (R393). -/
def State.headEngine (s : State) (q : Nat) : Option Nat :=
  match (s.head q).bind (·.eng) with
  | some n => some n
  | none => s.freeEngine

/-- The unit that serves a command of a queue, when one is free (R390-R393): Hearth for HMUL, Skipper for the sparse and
routing instructions and FUNC, the tile's DMA engine for transfers; on FD a DMA engine. -/
def State.unitFor (s : State) (q : Nat) (c : Cmd) : Option Unit' :=
  let free (u : Unit') := !s.runs.any (fun r => r.unit == u)
  let one (u : Unit') : Option Unit' := if free u then some u else none
  if c.opcode ≤ 0x04 ∨ c.opcode = oStepOpen ∨ c.opcode = oStepSeal then some (if isTileQ q then .seq q else .sched)
  else if c.opcode = oUpdate ∧ c.form = 0 then some .updater
  else if isTileQ q then
    -- HMULs overlap (R107): an array whose HMUL has executed is free for the next
    if c.opcode = oHmul then (if s.runs.any (fun r => r.unit == .hearth q && r.st != .executed) then none else some (.hearth q))
    else if c.opcode ≤ 0x07 then one (.tdma q)
    else one (.skipper q)
  else if c.opcode = oUpdate then one .updater
  else if c.isCollective then
    (if (s.runs.filter (fun r => r.unit == .netif && r.st != .standing)).isEmpty ∧
        (s.runs.filter (fun r => r.unit == .netif)).length < 8 then some .netif else none)
  else (s.headEngine q).map Unit'.fdma

/-- Zone index of a unit (R58, R391). -/
def State.unitZone (s : State) : Unit' → Nat
  | .seq t | .hearth t | .skipper t | .tdma t => zoneOfPhys (s.physOf t)
  | .fdma _ | .sched => 32
  | .netif => 33
  | .updater => 34

/-- The zone mask with the zone of the executing unit (R391), and in twin mode that of the odd tile (R373). -/
def State.zonesOf (s : State) (u : Unit') (c : Cmd) : Nat :=
  let m := c.zones ||| 2 ^ s.unitZone u
  match u.tile with
  | some t => if s.rb (rTwinCtl c.dom) 0 then m ||| 2 ^ zoneOfPhys (s.physOf (t + 1)) else m
  | none => m

/-- Current and target frequency codes of a zone (R59): 50 MHz steps. -/
def State.zFreq (s : State) (z : Nat) : Nat := s.rf (rZoneStatus z) 5 0
def State.zTgt (s : State) (z : Nat) : Nat := s.rf (rZoneFreqTgt z) 5 0

/-- The lowest code of the zones of a mask (R35). -/
def lowest (f : Nat → Nat) (mask : Nat) : Nat :=
  (List.range 38).foldl (fun m z => if bit mask z then min m (f z) else m) 44

end Sys2Proof.Machine
end

