-- ==== Sys2Proof/Machine/Exec.lean ====
section
/-!
DEFINITION. The context of one execution: what a command reads (through its snapshot, the codes, the host) and writes. A
command's writes are gathered and take effect together at the end of its execution, block by block and word by word
(R225, R231, R249; log entry 4).
-/
namespace Sys2Proof.Machine

/-- Why an execution stops (Table MS-5, or an instruction's own cause): cause and fault source; address and access. -/
structure Stop where
  cause : Nat
  src : Nat
  addr : Nat := 0
  akind : Nat := 0
  acc : Nat := 0
  detail : Nat := 0
deriving DecidableEq, Repr

/-- Where an operand lies: a VA, a byte offset in a logical tile's store, or a byte position of a receive stream counted
from its first byte not consumed (R359). -/
inductive Place where
  | va
  | tile (t : Nat)
  | stream (n : Nat)
deriving DecidableEq, Repr

/-- An element written (R370): its place, its nibble or bit there, its byte offset within its operand, its bits, its size. -/
structure El where
  pl : Place
  a : Int
  sub : Nat
  off : Int
  v : Nat
  sz : Nat
deriving DecidableEq, Repr

/-- The context of an execution. -/
structure X where
  s : State
  e : Env
  run : Run
  /-- The executing logical tile, if the command runs on a tile. -/
  tile : Option Nat
  /-- Bytes written so far by place (`locStack`, `locTile`), with poison. -/
  buf : Tab (Option (Byte × Bool)) := []
  /-- Bytes for host memory: PCIe address, byte, EP; newest first. -/
  hostW : List (Nat × Byte × Bool) := []
  /-- Runs of stack blocks to clear (VCLEAR): first block, count. -/
  clears : List (Nat × Nat) := []
  /-- Blocks and words read (each is decoded once an execution; log entry 4). -/
  seenB : List Nat := []
  seenW : List Nat := []
  /-- Poisoned 64-bit words read (R251). -/
  pw : List Nat := []
  /-- Where the first of them was met: address, its kind, access (Table FC-3). -/
  pAt : Option (Nat × Nat × Nat) := none
  flags : Flags := {}
  offered : Nat := 0
  done : Nat := 0
  dropped : Nat := 0
  result : W64 := 0
  cause : Nat := 0
  /-- Elements written, newest first (R370). -/
  els : List El := []
  /-- INT4 bytes of which this execution has written one nibble so far: place, nibble, its bits, poison. -/
  half : List ((Place × Int) × Nat × Nat × Bool) := []
  stop : Option Stop := none
  /-- A check of the execution detected (R365). -/
  det : Bool := false
  /-- The elements written come from converters or interpolators, which run twice (R263, R367). -/
  conv : Bool := false
  /-- Linear indices of an ALIAS destination whose element keeps the value of a higher one (R205). -/
  under : List Nat := []
  /-- An access outside an execution: its crossings take the errors that `Integ.cross` holds (R239). -/
  own : Bool := false
deriving DecidableEq, Repr

/-- The context of what the module reads and writes for a job outside its executions: as the run `r`, on behalf of which it does so. -/
def State.ownX (s : State) (r : Run) (tile : Option Nat) : X := { s, e := { crc := s.integ.cross }, run := r, tile, own := true }

def bufReset (_ : Nat) : Option (Byte × Bool) := none

/-- The place of a tile-store byte among buffered writes; a stack byte's place is its DPA. -/
def locTile (key : Nat) : Nat := 2 ^ 44 + key

/-- Logical tile named by the TILE encoding of Table TD-2, and its byte offset. -/
def tileOf (self : Option Nat) (enc : Nat) : Nat × Nat :=
  (if bit enc 30 then self.getD 0 else 48 * bits enc 29 29 + bits enc 28 23, bits enc 22 0)

/-- Place and base address of a descriptor's elements, and of its AUX area. -/
def Desc.place (d : Desc) (self : Option Nat) : Place × Int :=
  if d.space = 1 then (.tile (tileOf self d.base).1, (tileOf self d.base).2)
  else if d.space = 2 then (.stream (d.base % 1024), 0)
  else (.va, d.base)
def Desc.auxPlace (d : Desc) (self : Option Nat) : Place × Int :=
  if d.space = 2 then (.stream (d.aux % 1024), 0)
  else if d.space = 1 ∨ d.space = 3 then (.tile (tileOf self d.aux).1, (tileOf self d.aux).2) else (.va, d.aux)

/-- The snapshot entry that holds a VA (R220). -/
def pageOf (ps : List Page) (a : Nat) : Option Page := ps.find? (fun p => decide (p.va ≤ a ∧ a < p.va + p.size))

def X.fail (x : X) (st : Stop) : X := if x.stop.isSome then x else { x with stop := some st }
def X.orF (x : X) (f : Flags) : X := { x with flags := x.flags.or f }

/-- A translation or protection failure of this access (Table MS-5): cause 19, source 17. -/
def X.xlate (x : X) (a : Nat) (acc : Nat) (ro : Bool) : X :=
  x.fail { cause := 19, src := 17, addr := a, akind := 1, acc, detail := 19 + (if ro then 2 ^ 8 else 0) }

def X.addPw (x : X) (k : Nat) : X := if x.pw.contains k then x else { x with pw := k :: x.pw }

/-- Host memory at an address, as the environment's completions return it. -/
def envByte (e : Env) (a : Nat) : Byte := Tab.get byteReset e.host a
def envEp (e : Env) (a : Nat) : Bool := e.ep.any (fun r => decide (r.1 ≤ a ∧ a < r.1 + r.2))

/-- Who accesses memory for the execution: its unit (Table FC-3). -/
def X.who (x : X) (acc : Nat) : By := ⟨(x.s.master x.run.unit).1, (x.s.master x.run.unit).2, acc⟩

/-- Decode the block that holds a DPA, once an execution. -/
def X.touchBlk (x : X) (b : Nat) : X :=
  if x.seenB.contains b then x
  else { x with s := (x.s.readBlk x.e b (x.who 1)).1, seenB := b :: x.seenB }

/-- A byte of a block as its crossing delivers it: with what the interface CRC has not seen (R239). -/
def X.crossedByte (x : X) (dpa : Nat) : Byte := x.s.dataByte dpa ^^^ (crossRead x.e (dpa / 256)).2.err (dpa % 256)

/-- Read a tile-store word through the decoder, once an execution. -/
def X.touchWord (x : X) (k : Nat) : X :=
  if x.seenW.contains k then x else { x with s := (x.s.readWord k (x.who 1)).1, seenW := k :: x.seenW }

/-- One byte at a DPA as the execution sees it: its own earlier write, else memory. -/
def X.stackByte (x : X) (dpa : Nat) : X × Byte × Bool :=
  match Tab.get bufReset x.buf dpa with
  | some (v, p) => (x, v, p)
  | none =>
    let x := x.touchBlk (dpa / 256)
    if x.s.blkPoisoned (dpa / 256) then (x.addPw (dpa / 8), 0, true) else (x, x.crossedByte dpa, false)

/-- The clean copy that the Cocoon holds of a byte, where the word read now is uncorrectable (R248). -/
def X.cleanCopy (x : X) (key : Nat) : Option Byte :=
  match Tab.get bufReset (x.run.kept.map (fun w => (w.1, some (w.2.1, w.2.2)))) (locTile key) with
  | some (v, false) => if (x.s.mem.seeWord (key / 8)).2.2 == .bad then some v else none
  | _ => none

/-- One byte of a tile store as the execution sees it; an uncorrectable word of which the Cocoon holds a clean copy is a detection,
and no poison is written (R248, R371). -/
def X.tileByte (x : X) (key : Nat) : X × Byte × Bool :=
  match Tab.get bufReset x.buf (locTile key) with
  | some (v, p) => (x, v, p)
  | none =>
    match x.cleanCopy key with
    | some v => ({ x with det := true }, v, false)
    | none =>
      let x := x.touchWord (key / 8)
      let w := x.s.mem.seeWord (key / 8)
      if w.2.1 then (x.addPw (2 ^ 44 + key / 8), 0, true)
      else (x, BitVec.ofNat 8 (fld w.1 (8 * (key % 8) + 7) (8 * (key % 8))), false)

/-- Tile-store place of a stream byte: the ring of `STREAM_CFG[n]` (R359). -/
def State.streamKey (s : State) (n a : Nat) : Nat :=
  let c := rStreamCfg n
  (48 * s.rf c 8 8 + s.rf c 14 9) * tileBytes + s.rf c 34 24 * 4096
    + ((s.stream n).consumed + a) % ((s.rf c 43 36 + 1) * 4096)

/-- Bytes of a stream that have come in order and are not consumed. -/
def State.streamAvail (s : State) (n : Nat) : Nat :=
  let t := s.stream n
  let run := ((List.range (t.got.length + 1)).find? (fun u => !t.got.contains u)).getD 0
  let open' := match t.total with | some b => min b (16 * run) | none => 16 * run
  t.base + open' - t.consumed

/-- Streams that a run reads, with the bytes it takes of each (R359; of one that is both, log entry 117). -/
def Run.streams (r : Run) : List (Nat × Nat) :=
  r.descs.flatMap (fun d => match d with
    | some d => if d.space = 2 then
        (d.base % 1024, (d.count * d.ty.bits + 7) / 8) :: (if d.auxLen = 0 then [] else [(d.aux % 1024, d.auxLen)])
      else []
    | none => [])

/-- Bytes of a stream that a run has not taken yet. -/
def Run.wants (r : Run) (n : Nat × Nat) : Nat := n.2 - (r.taken.filter (fun b => b.1 == n.1)).length

/-- An address as Table FC-3 gives it: device VA, TILE encoding, or stream and byte offset, with its kind. -/
def Place.addr (pl : Place) (a : Int) : Nat × Nat :=
  match pl with
  | .va => (a.toNat, 1)
  | .tile t => (a.toNat + t % 48 * 2 ^ 23 + t / 48 * 2 ^ 29, 3)
  | .stream n => (n * 2 ^ 40 + a.toNat, 6)

/-- One byte at a place as the execution sees it; access kind 0 stands for the read that a write of part of a byte makes. -/
def X.byteOf (x : X) (pl : Place) (acc : Nat) (a : Int) : X × Byte × Bool :=
  if x.stop.isSome then (x, 0, false)
  else match pl with
    | .tile t => x.tileByte (t * tileBytes + a.toNat)
    | .stream n =>
      match (x.run.taken.filter (fun b => b.1 == n))[a.toNat]? with
      | some b => if b.2.2 then (x.addPw (2 ^ 54 + 2 ^ 40 * n + a.toNat / 8), 0, true) else (x, b.2.1, false)
      | none => (x, 0, false)
    | .va =>
      match pageOf x.run.pages a.toNat with
      | none => (x.xlate a.toNat (if acc = 0 then 2 else acc) false, 0, false)
      | some p =>
        if !p.present then (x.xlate a.toNat (if acc = 0 then 2 else acc) false, 0, false)
        else
          let pa := p.addr + (a.toNat - p.va)
          if p.host then
            match (if acc = 0 then x.hostW.find? (fun (w : Nat × Byte × Bool) => w.1 == pa) else none) with
            | some w => (x, w.2.1, w.2.2)
            | none => if envEp x.e pa then (x.addPw (2 ^ 52 + pa / 8), 0, true) else (x, envByte x.e pa, false)
          else x.stackByte pa

/-- One byte at a place: `acc` is the access kind of Table FC-3. -/
def X.byteAt (x : X) (pl : Place) (acc : Nat) (a : Int) : X × Byte × Bool :=
  let r := x.byteOf pl acc a
  if r.2.2 && r.1.pAt.isNone then ({ r.1 with pAt := some ((pl.addr a).1, (pl.addr a).2, acc) }, r.2) else r

/-- `n` bytes at a place, little-endian; poisoned if any byte is. -/
def X.read (x : X) (pl : Place) (acc : Nat) (a : Int) : Nat → X × Nat × Bool
  | 0 => (x, 0, false)
  | n + 1 =>
    let r := x.byteAt pl acc a
    let q := X.read r.1 pl acc (a + 1) n
    (q.1, r.2.1.toNat + 256 * q.2.1, r.2.2 || q.2.2)

/-- Write one byte. -/
def X.putByte (x : X) (pl : Place) (a : Int) (v : Byte) (p : Bool) : X :=
  if x.stop.isSome then x
  else match pl with
    | .tile t => { x with buf := Tab.set bufReset x.buf (locTile (t * tileBytes + a.toNat)) (some (v, p)) }
    | .stream _ => x
    | .va =>
      match pageOf x.run.pages a.toNat with
      | none => x.xlate a.toNat 2 false
      | some pg =>
        if !pg.present then x.xlate a.toNat 2 false
        else if !pg.write then x.xlate a.toNat 2 true
        else
          let pa := pg.addr + (a.toNat - pg.va)
          if pg.host then
            let old := match x.hostW with | w :: t => if w.1 = pa then t else x.hostW | [] => []
            { x with hostW := (pa, v, p) :: old }
          else { x with buf := Tab.set bufReset x.buf pa (some (v, p)) }

/-- Write `n` bytes, little-endian. -/
def X.write (x : X) (pl : Place) (a : Int) (v : Nat) (p : Bool) : Nat → X
  | 0 => x
  | n + 1 => X.write (x.putByte pl a (BitVec.ofNat 8 v) p) pl (a + 1) (v / 256) p n

/-! ### The end of an execution -/

/-- Group sorted writes by a key of their place. -/
def groupLocs (f : Nat → Nat) : List (Nat × Byte × Bool) → List (Nat × List (Nat × Byte × Bool))
  | [] => []
  | w :: ws =>
    match groupLocs f ws with
    | [] => [(f w.1, [w])]
    | (k, g) :: rest => if f w.1 = k then (k, w :: g) :: rest else (f w.1, [w]) :: (k, g) :: rest

/-- Buffered bytes in ascending place. -/
def X.bytes (x : X) : List (Nat × Byte × Bool) :=
  x.buf.filterMap (fun e => match e.2 with | some (v, p) => some (e.1, v, p) | none => none)

/-- Where a byte lies among buffered writes, if it lies in memory of the module. -/
def X.locOf (x : X) (pl : Place) (a : Int) : Option Nat :=
  match pl with
  | .tile t => some (locTile (t * tileBytes + a.toNat))
  | .stream _ => none
  | .va =>
    match pageOf x.run.pages a.toNat with
    | some p => if p.present && !p.host then some (p.addr + (a.toNat - p.va)) else none
    | none => none

/-- Bytes of which the execution has written one nibble only: the other one is merged in. -/
def X.halves (x : X) : List Nat := x.half.filterMap (fun h => x.locOf h.1.1 h.1.2)

/-- Does a group of buffered bytes reach its stack block only in part? -/
def inPart (halves : List Nat) (g : Nat × List (Nat × Byte × Bool)) : Bool :=
  decide (g.2.length < 256) || g.2.any (fun w => halves.contains w.1)

/-- Stack blocks that the execution's writes reach only in part, with good data. -/
def X.partBlks (x : X) : List Nat :=
  ((groupLocs (· / 256) (x.bytes.filter (fun w => decide (w.1 < 2 ^ 44)))).filter (fun g =>
    !g.2.any (·.2.2) && inPart x.halves g)).map (·.1)

/-- The merge reads of the blocks reached in part (R225), which the stack controller makes behind the interface: each is decoded once
an execution, and an uncorrectable one becomes poisoned before anything is written (R248, R249). -/
def X.mergeReads (x : X) : X := { x.partBlks.foldl X.touchBlk { x with e := inBase x.e } with e := x.e }

/-- The crossings that an access outside an execution has made are over. -/
def X.crossed (x : X) : State :=
  if x.own then
    { x.s with integ := { x.s.integ with cross := x.s.integ.cross.filter (fun c =>
        !(x.seenB.contains (c.1 / 256) || x.bytes.any (fun w => w.1 / 256 == c.1 / 256))) } }
  else x.s

/-- Write one group of bytes of a stack block outside an execution: poison takes the whole block (R249). -/
def flushBlk (s : State) (g : Nat × List (Nat × Byte × Bool)) : State :=
  if g.2.any (·.2.2) then { s.seeMap g.1 with mem := (s.seeMap g.1).mem.poisonBlk g.1 }
  else (s.writeBlk g.1 (g.2.map (fun w => (w.1 % 256, w.2.1))) {}).1

def flushWord (by' : By) (s : State) (g : Nat × List (Nat × Byte × Bool)) : State :=
  s.writeWord g.1 (g.2.map (fun w => ((w.1 - 2 ^ 44) % 8, w.2))) by'

/-- Issue host data writes, oldest first, one byte run per posted write of consecutive bytes, of at most `mps` bytes. -/
def hostPosts (mps : Nat) : List (Nat × Byte × Bool) → List (Nat × List Byte × Bool) → List (Nat × List Byte × Bool)
  | [], acc => acc
  | (a, v, p) :: ws, acc =>
    match acc with
    | (b, bs, q) :: rest =>
      if a = b + bs.length ∧ p = q ∧ bs.length < mps then hostPosts mps ws ((b, bs ++ [v], q) :: rest) else hostPosts mps ws ((a, [v], p) :: acc)
    | [] => hostPosts mps ws [(a, [v], p)]

/-- Blocks that a write reaches only in part while they read as poisoned (R249); `mergeReads` has decoded them. -/
def X.partialPoison (x : X) : List Nat := x.partBlks.filter x.s.blkPoisoned

/-- The crossing of a block that is written (R239): the attempts that its read in this execution has left. -/
def crossWrite (e : Env) (seen : List Nat) (b : Nat) : Cross :=
  crossOnce (if seen.contains b then (crossRead e b).2.rest else tries e b)

/-- Write one group of bytes of a block that `mergeReads` has decoded: it crosses to its base die with up to 3 retries (R239), else it
is uncorrectable there and becomes poisoned (R248); poison takes the whole block (R249). -/
def flushSeen (e : Env) (seen halves : List Nat) (by' : By) (a : State × List Nat) (g : Nat × List (Nat × Byte × Bool)) :
    State × List Nat :=
  let c := crossWrite e seen g.1
  let s := (a.1.seeMap g.1).retries g.1 c by'
  if !g.2.any (·.2.2) && inPart halves g && s.blkPoisoned g.1 then (s, (List.range 32).map (fun i => 32 * g.1 + i) ++ a.2)
  else if !c.ok then ({ (s.wroteMap g.1).bump (cRsUe (g.1 / 2 ^ 28)) 1 with mem := s.mem.poisonBlk g.1 }, a.2)
  else if g.2.any (·.2.2) then ({ s.wroteMap g.1 with mem := s.mem.poisonBlk g.1 }, a.2)
  else ((s.wroteMap g.1).mergeBlk g.1 (g.2.map (fun w => (w.1 % 256, w.2.1 ^^^ c.err (w.1 % 256)))), a.2)

/-- VCLEAR of a run of blocks, whose valid-map words the decoder reads (R226, R227). -/
def State.clearRange (s : State) (c : Nat × Nat) : State :=
  { (s.seeMaps c.1 c.2).wroteMaps c.1 c.2 with mem := (s.seeMaps c.1 c.2).mem.clearBlks c.1 c.2 }

/-- A row's crossings join those that outside accesses meet. -/
def State.crossings (s : State) (e : Env) : State := { s with integ := { s.integ with cross := s.integ.cross ++ e.crc } }

/-- Apply an execution's writes. Answers the poisoned words met by partial writes. -/
def X.flush (x0 : X) : X :=
  let x := x0.mergeReads
  let ws := x.bytes
  let by' := x.who 2
  let r := (groupLocs (· / 256) (ws.filter (fun w => decide (w.1 < 2 ^ 44)))).foldl (flushSeen x.e x0.seenB x.halves by') (x.s, [])
  let s := (groupLocs (fun l => (l - 2 ^ 44) / 8) (ws.filter (fun w => decide (2 ^ 44 ≤ w.1)))).foldl (flushWord by') r.1
  let s := x.clears.foldl State.clearRange s
  let s := ({ x with s } : X).crossed
  let s := (hostPosts x.s.maxPayload x.hostW.reverse []).reverse.foldl (fun s p => s.post (.data p.1 p.2.1 p.2.2)) s
  { x with s, pw := r.2.foldl (fun l k => if l.contains k then l else k :: l) x.pw }

/-- Write bytes at places outside an execution (place, byte, poison): what the Cocoon retains, and unspecified values. No block crosses
the interface for it (log entry 109). -/
def State.putLocs (s : State) (ws : List (Nat × Byte × Bool)) : State :=
  let t := (groupLocs (· / 256) (ws.filter (fun w => decide (w.1 < 2 ^ 44)))).foldl flushBlk s
  (groupLocs (fun l => (l - 2 ^ 44) / 8) (ws.filter (fun w => decide (2 ^ 44 ≤ w.1)))).foldl (flushWord {}) t

/-- Bytes whose value is left unspecified take free values (R111, R129, R177, R223; log entry 1): by place. -/
def State.freeLocs (s : State) (locs : List Nat) : State :=
  let r := locs.foldl (fun (a : State × List (Nat × Byte × Bool)) l =>
    let v := a.1.freeByte; (v.2, (l, v.1, false) :: a.2)) (s, [])
  r.1.putLocs r.2.reverse

/-- What the module holds at places, as its decoders deliver it, with no effect on it. -/
def State.seeLocs (s : State) (ls : List Nat) : List (Nat × Byte × Bool) :=
  ls.map (fun l =>
    if l < 2 ^ 44 then
      if s.blkPoisoned (l / 256) then (l, 0#8, true) else (l, s.dataByte l, false)
    else
      let k := l - 2 ^ 44
      let v := s.mem.seeWord (k / 8)
      if v.2.1 then (l, 0#8, true) else (l, BitVec.ofNat 8 (fld v.1 (8 * (k % 8) + 7) (8 * (k % 8))), false))

/-- The elements as the execution leaves them: of those written more than once, the last. -/
def lastEls : List El → List El → List El
  | [], acc => acc
  | e :: es, acc => lastEls es (if acc.any (fun q => q.pl == e.pl && q.a == e.a && q.sub == e.sub) then acc else e :: acc)

/-- The output digest (R370): the XOR of the CRC-32C of each element's offset, in two's complement, and bits, and the flags in [3:0]. -/
def X.digest (x : X) : Nat :=
  (lastEls x.els []).foldl (fun a e => a ^^^ crc32c (leBytes 8 (unsigned 64 e.off) ++ leBytes e.sz e.v)) 0 ^^^ x.flags.toNat

end Sys2Proof.Machine
end

