-- ==== Sys2Proof/Machine/Flags.lean ====
section
/-!
DEFINITION. Flag computations of whole commands: which flags a value read or a result written raises (R67, R80-R82,
R91-R93); the arithmetic operations carry their own flags (Machine/Num.lean).
-/
namespace Sys2Proof.Machine

/-- NV for a NaN that is read as an operand of an expansion or a conversion (R91, R92). -/
def nanFlag (v : Ex) : Flags := if v.isNan then fNV else {}

/-- Expansion of an INT4 or INT8 element on its way into an engine (R91, R92): the pattern of the target and the flags.
`entry` is the table entry in table mode, `par` the parameter word in scale mode. -/
def expandInt (d : Desc) (code entry par : Nat) : Nat × Flags :=
  let tgt : ETy := if d.expTgt then .zf16 else .zf8
  if d.expMode then
    let q := signed (if d.ty = .int4 then 4 else 8) code
    match intVal (par % 65536) (signed 8 (par / 65536)) q with
    | .nan c => (nanPat tgt c, fNV)
    | v => convTo tgt false none v
  else (entry, nanFlag (tgt.val entry))

/-- The exact value of an INT4 or INT8 element taken by value (R92, last paragraph), and the flags of the read. -/
def intExact (d : Desc) (code entry par : Nat) : Ex × Flags :=
  if d.expMode then
    let v := intVal (par % 65536) (signed 8 (par / 65536)) (signed (if d.ty = .int4 then 4 else 8) code)
    (v, nanFlag v)
  else
    let v := ETy.val (if d.expTgt then .zf16 else .zf8) entry
    (v, nanFlag v)

/-- The flags a delivered ZA32 word raises by being a NaN (R67, R80). -/
def nvOf (w : W32) : Flags := nanFlag (W32.ex w)

end Sys2Proof.Machine
end

