-- ==== Sys2Proof/Machine/Operands.lean ====
section
/-!
DEFINITION. Operand forms: reading and writing one element of a tensor through its descriptor (R189-R200), by pattern or by
value, with block scales (R73, R199), expansions (R90-R92), fill (R200, R206) and poison.
-/
namespace Sys2Proof.Machine

/-- The stored pattern of an element in bounds. -/
def X.raw (x : X) (d : Desc) (acc : Nat) (i : Ix) : X × Nat × Bool :=
  let pb := d.place x.tile
  let o := d.byteOff i
  match d.ty with
  | .bitmap =>
    let r := x.read pb.1 acc (pb.2 + o.1) 8
    (r.1, (r.2.1 >>> o.2) % 2, r.2.2)
  | .int4 =>
    let r := x.read pb.1 acc (pb.2 + o.1) 1
    (r.1, (r.2.1 >>> (4 * o.2)) % 16, r.2.2)
  | _ => x.read pb.1 acc (pb.2 + o.1) d.esz

/-- The block scale of an element (R73, R199); 0 for a tensor that is not block-scaled. -/
def X.scale (x : X) (d : Desc) (i : Ix) : X × Int × Bool :=
  if d.bscaled then
    let pb := d.auxPlace x.tile
    let r := x.read pb.1 1 (pb.2 + (d.sigma i / 32 : Nat)) 1
    (r.1, signed 8 r.2.1, r.2.2)
  else (x, 0, false)

/-- The parameter word (scale mode) or table entry (table mode) of an element (R91, R92, R199). -/
def X.param (x : X) (d : Desc) (i : Ix) (code : Nat) : X × Nat × Bool :=
  let pb := d.auxPlace x.tile
  if d.expMode then x.read pb.1 1 (pb.2 + (4 * (d.sigma i / 32) : Nat)) 4
  else if d.expTgt then x.read pb.1 1 (pb.2 + (2 * code : Nat)) 2
  else x.read pb.1 1 (pb.2 + (code : Nat)) 1

/-- The value an engine reads of an element in bounds (R72, R73, R91, R92). -/
def X.valIx (x : X) (d : Desc) (acc : Nat) (i : Ix) : X × Ex × Bool :=
  let r := x.raw d acc i
  match d.ty with
  | .zm32 => (r.1, ETy.val .zf16 (r.2.1 / 65536), r.2.2)
  | .int4 | .int8 =>
    let p := r.1.param d i r.2.1
    let v := expandInt d r.2.1 p.2.1 p.2.1
    (if r.2.2 || p.2.2 then p.1 else p.1.orF v.2, ETy.val (if d.expTgt then .zf16 else .zf8) v.1, r.2.2 || p.2.2)
  | t =>
    let sc := r.1.scale d i
    (sc.1, (t.val r.2.1).scale sc.2.1, r.2.2 || sc.2.2)

/-- The value an engine reads at a linear index: fill where it is out of bounds (R200, R206). -/
def X.val (x : X) (d : Desc) (acc l : Nat) : X × Ex × Bool :=
  match d.at l with
  | some i => x.valIx d acc i
  | none => (x, d.fillVal, false)

/-- The exact value that CONVERT and a converting transfer read (R86, R92): ZM32 by its full value, INT by value. -/
def X.exact (x : X) (d : Desc) (acc l : Nat) : X × Ex × Bool :=
  match d.at l with
  | none => (x, d.fillVal, false)
  | some i =>
    let r := x.raw d acc i
    match d.ty with
    | .zm32 => (r.1, zm32Val r.2.1, r.2.2)
    | .int4 | .int8 =>
      let p := r.1.param d i r.2.1
      let v := intExact d r.2.1 p.2.1 p.2.1
      (if r.2.2 || p.2.2 then p.1 else p.1.orF v.2, v.1, r.2.2 || p.2.2)
    | t =>
      let sc := r.1.scale d i
      (sc.1, (t.val r.2.1).scale sc.2.1, r.2.2 || sc.2.2)

/-- The pattern at a linear index, for copies and index lists; fill where it is out of bounds. `copy`: ZM32 fill as a
whole word, INT fill as its fill code (R200). -/
def X.pat (x : X) (d : Desc) (acc l : Nat) : X × Nat × Bool :=
  match d.at l with
  | some i => x.raw d acc i
  | none => (x, match d.ty with
      | .zm32 => d.fill % 65536 * 65536
      | .int8 => bits d.fill 31 24
      | .int4 => bits d.fill 27 24
      | _ => d.fill, false)

/-- Write one nibble of a byte: the other nibble is merged in, until the execution has written both. A word in a tile store that was
poisoned stays so until then (R252); a stack block is reached in part (R225, R249). -/
def X.putNibble (x : X) (pl : Place) (a : Int) (k v : Nat) (p : Bool) : X :=
  match x.half.find? (fun h => h.1 == (pl, a)) with
  | some h =>
    if h.2.1 = k then
      let other := if k = 0 then 16 else 1
      let r := x.read pl 0 a 1
      let o := r.2.1 / other % 16 * other
      { r.1 with pw := x.pw, pAt := x.pAt, half := ((pl, a), k, v % 16, p) :: x.half.erase h }.write pl a (o + v % 16 * 16 ^ k)
        ((match pl with | .tile _ => r.2.2 | _ => false) || p) 1
    else { x with half := x.half.erase h }.write pl a (h.2.2.1 * 16 ^ h.2.1 + v % 16 * 16 ^ k) (p || h.2.2.2) 1
  | none =>
    let whole := match x.locOf pl a with
      | some l => (Tab.get bufReset x.buf l).isSome
      | none => false
    let r := x.read pl 0 a 1
    let x := { r.1 with pw := x.pw, pAt := x.pAt }
    let other := if k = 0 then r.2.1 / 16 * 16 else r.2.1 % 16
    let q := match pl with
      | .tile _ => p || r.2.2
      | _ => p || (whole && r.2.2)
    { x with half := if whole then x.half else ((pl, a), k, v % 16, p) :: x.half }.write pl a (other + v % 16 * 16 ^ k) q 1

/-- Write the stored pattern of an element. A command writes the bits of a bitmap word in ascending order and all of them: the
word starts from zeros, with the bits beyond the last column 0 (R124), and is poisoned if a bit of it is (R125). -/
def X.putIx (x : X) (d : Desc) (i : Ix) (v : Nat) (p : Bool) : X :=
  let pb := d.place x.tile
  let o := d.byteOff i
  let a := pb.2 + o.1
  let off : Int := if d.ty = .bitmap then o.1 + (o.2 / 8 : Nat) else o.1
  let x := if x.stop.isSome then x else { x with els := ⟨pb.1, a, o.2, off, v, d.esz⟩ :: x.els }
  match d.ty with
  | .bitmap =>
    let r := if o.2 = 0 then (x, 0, false) else x.read pb.1 0 a 8
    { r.1 with pw := x.pw, pAt := x.pAt }.write pb.1 a (r.2.1 % 2 ^ o.2 + v % 2 * 2 ^ o.2) (p || r.2.2) 8
  | .int4 => x.putNibble pb.1 a o.2 v p
  | _ => x.write pb.1 a v p d.esz

/-- The faults of a stage that strike output (m, n), as one pattern. -/
def faultPat (fs : List CFault) (stage m n : Nat) : W32 :=
  fs.foldl (fun a f => if f.stage = stage ∧ f.row = m ∧ f.col = n then a ^^^ f.pat else a) 0#32

/-- An error in a word that moves or converts: `pat` strikes `n` bits from bit `sh` of it (R263, R367). Two converters that differ
detect; a moved word keeps its check bits, so the decoder at its destination corrects it, detects, or takes a wrong word for a
good one. -/
def X.strikeBits (x : X) (pat sh n v : Nat) : X × Nat :=
  let o := x.run.cmd.opcode
  if pat = 0 then (x, v)
  else if x.conv then ({ x with det := true }, v ^^^ pat)
  else if o = 0x05 ∨ o = 0x12 ∨ o = 0x13 ∨ o = 0x14 then
    let w := pat * 2 ^ sh % 2 ^ 64
    match bchDecode w with
    | .bad => ({ x with det := true }, v ^^^ pat)
    | .fixed g => (x, v ^^^ ((w ^^^ g) / 2 ^ sh % 2 ^ n))
    | .clean => (x, v ^^^ pat)
  else (x, v)

/-- An error that strikes the element written next: fault stage 2. -/
def X.strike (x : X) (d : Desc) (i : Ix) (v : Nat) : X × Nat :=
  let pat := x.e.faults.foldl (fun a f => if f.stage = 2 ∧ f.row = x.done then a ^^^ f.pat.toNat else a) 0 % 2 ^ d.ty.bits
  let pb := d.place x.tile
  x.strikeBits pat (8 * ((pb.2 + (d.byteOff i).1) % 8).toNat + (if d.ty = .int4 then 4 * (d.byteOff i).2 else 0)) d.ty.bits v

/-- An error that strikes a scale byte (`col` 0, `row` its block) or a byte of an answer block's header (`col` 1, `row` its number)
on its way: fault stage 5. -/
def X.strikeByte (x : X) (row col : Nat) (a : Int) (v : Nat) : X × Nat :=
  x.strikeBits ((faultPat x.e.faults 5 row col).toNat % 256) (8 * (a % 8).toNat) 8 v

/-- Write an element that the command offers and counts (R207). -/
def X.put (x : X) (d : Desc) (l v : Nat) (p : Bool) : X :=
  if x.stop.isSome then x
  else match d.at l with
    | some i =>
      let h := x.strike d i v
      if x.under.contains l then { h.1 with offered := x.offered + 1, done := x.done + 1 }
      else { h.1.putIx d i h.2 p with offered := x.offered + 1, done := x.done + 1 }
    | none => { x with offered := x.offered + 1, dropped := x.dropped + 1 }

/-- Write the scale byte of a block (R199). -/
def X.putScale (x : X) (d : Desc) (blk : Nat) (s : Int) (p : Bool) : X :=
  let pb := d.auxPlace x.tile
  let h := x.strikeByte blk 0 (pb.2 + (blk : Nat)) (unsigned 8 s)
  h.1.write pb.1 (pb.2 + (blk : Nat)) h.2 p 1

/-- A run of consecutive words, read as little-endian numbers: records and index lists outside descriptors' geometry. -/
def X.readWords (x : X) (pl : Place) (a : Int) (size : Nat) : Nat → X × List Nat × Bool
  | 0 => (x, [], false)
  | n + 1 =>
    let r := x.read pl 1 a size
    let q := X.readWords r.1 pl (a + (size : Nat)) size n
    (q.1, r.2.1 :: q.2.1, r.2.2 || q.2.2)

/-- All values of a list of linear indices. -/
def X.vals (x : X) (d : Desc) (acc : Nat) : List Nat → X × List (Ex × Bool)
  | [] => (x, [])
  | l :: ls =>
    let r := x.val d acc l
    let q := X.vals r.1 d acc ls
    (q.1, (r.2.1, r.2.2) :: q.2)

/-- All patterns of a list of linear indices. -/
def X.pats (x : X) (d : Desc) (acc : Nat) : List Nat → X × List (Nat × Bool)
  | [] => (x, [])
  | l :: ls =>
    let r := x.pat d acc l
    let q := X.pats r.1 d acc ls
    (q.1, (r.2.1, r.2.2) :: q.2)

/-- Every byte place of the elements `p` selects of a written descriptor, through the snapshot: what a discarded execution
leaves unspecified (R111). -/
def Desc.locs (d : Desc) (self : Option Nat) (pages : List Page) (p : Ix → Bool) : List Nat :=
  let one (pl : Place) (a : Int) : Option Nat :=
    match pl with
    | .tile t => some (locTile (t * tileBytes + a.toNat))
    | .stream _ => none
    | .va => match pageOf pages a.toNat with
      | some p => if p.present && p.write && !p.host then some (p.addr + (a.toNat - p.va)) else none
      | none => none
  let pb := d.place self
  ((((List.range d.stCount).map d.unsigma).filter p).flatMap (fun g =>
    let o := d.byteOff g
    (List.range (if d.ty = .bitmap then 8 else d.esz)).filterMap (fun k => one pb.1 (pb.2 + o.1 + (k : Nat))))).eraseDups

end Sys2Proof.Machine
end

