-- ==== Sys2Proof/Machine/Check.lean ====
section
/-!
DEFINITION. What the engines share: a command's operands by place, regions and lists read whole, the check format and its
comparison (R365), residue checks (R366).
-/
namespace Sys2Proof.Machine

/-! ### Operands by place -/

/-- A descriptor that reads as nothing: where an optional operand is absent. -/
def noDesc : Desc :=
  { base := 0, space := 0, dom := 0, aux := 0, ety := 0, rank := 1, layout := 0, trans := false, bscaled := false,
    bshape := false, ovfNan := false, expMode := false, expTgt := false, tensor := 0, fill := 0, padLo0 := 0, padHi0 := 0,
    padLo1 := 0, padHi1 := 0, n0 := 0, n1 := 0, n2 := 0, n3 := 0, s0 := 0, s1 := 0, s2 := 0, s3 := 0, rsvd0 := true }

/-- Operand k of a command's descriptors, and whether it is present. -/
def dAt (ds : List (Option Desc)) (k : Nat) : Desc := (ds.getD k none).getD noDesc

def dHas (ds : List (Option Desc)) (k : Nat) : Bool := (ds.getD k none).isSome

/-- Is a written operand marked ALIAS (R203-R205)? -/
def Cmd.aliased (c : Cmd) (ds : List (Option Desc)) : Bool :=
  (c.hands.zip ds).any (fun hd =>
    match hd.1.dir, hd.2 with
    | .rd, _ => false
    | _, some d => d.ty != .bitmap && d.space != 3 && !d.injective
    | _, none => false)

/-! ### Operands read whole -/

/-- A run that stands for the module's own accesses through a translation kept by it. -/
def ownRun (d : Nat) (pages : List Page) : Run :=
  { cmd := ⟨0, 0, 0, d, 0, []⟩, q := 0, unit := .netif, pages }

/-- `n` bytes of a region from byte `o`, as a little-endian number, through its BYTE descriptor. -/
def X.region (x : X) (d : Desc) (o : Nat) : Nat → X × Nat × Bool
  | 0 => (x, 0, false)
  | n + 1 =>
    let r := x.pat d 1 o
    let q := X.region r.1 d (o + 1) n
    (q.1, r.2.1 % 256 + 256 * q.2.1, r.2.2 || q.2.2)

/-- Words read of a list of element numbers of a one-dimensional operand; poisoned if any is. -/
def X.list (x : X) (d : Desc) (n : Nat) : X × List Nat × Bool :=
  let r := x.pats d 1 (List.range n)
  (r.1, r.2.map (·.1), r.2.any (·.2))

/-- Every element of a written operand is written poisoned, and every scale byte of a block-scaled one: a word of an index, offsets or
key list, a header or a bitmap was (Table DI-4). -/
def X.poisonAll (x : X) (d : Desc) : X :=
  let x := (List.range d.count).foldl (fun x l => x.put d l 0 true) x
  let pl := d.auxPlace x.tile
  if d.bscaled then (List.range (ceilDiv d.stCount 32)).foldl (fun x j => x.putByte pl.1 (pl.2 + (j : Nat)) 0 true) x else x

/-- The bits of a result word that depend on poisoned data are not stated: free values (log entry 1); the others are `fixed`. -/
def X.freeResult (x : X) (mask : W64 := ~~~0#64) (fixed : W64 := 0#64) : X :=
  let v := x.s.freeWord; { x with s := v.2, result := (v.1 &&& mask) ||| (fixed &&& ~~~mask) }

/-- The residue checks of address, index and counter arithmetic (R157, R366). -/
def X.residue (x : X) : X :=
  if x.e.faults.any (fun f => decide (f.stage = 3) && f.pat != 0#32) then { x with det := true } else x

/-! ### The check format (R365) -/

/-- Round a finite value to 40 significant bits, ties to even. -/
def checkRound (a : Int × Int) : Int × Int :=
  let n := Nat.log2 a.1.natAbs
  if n < 40 then a else (rneDivI a.1 (2 ^ (n - 39)), a.2 + ((n - 39 : Nat) : Int))

/-- Addition and multiplication of check values: finite ones are rounded at each addition and never overflow (R365). -/
def chkAdd : Ex → Ex → Ex
  | .nan a, _ => .nan a
  | _, .nan b => .nan b
  | .inf a, .inf b => if a = b then .inf a else .nan 2
  | .inf a, _ => .inf a
  | _, .inf b => .inf b
  | .fin m1 e1, .fin m2 e2 => let r := checkRound (finAdd m1 e1 m2 e2); .fin r.1 r.2
def chkMul : Ex → Ex → Ex
  | .nan a, _ => .nan a
  | _, .nan b => .nan b
  | .inf a, .inf b => .inf (a != b)
  | .inf a, .fin m _ => if m = 0 then .nan 3 else .inf (a != decide (m < 0))
  | .fin m _, .inf b => if m = 0 then .nan 3 else .inf (b != decide (m < 0))
  | .fin m1 e1, .fin m2 e2 => .fin (m1 * m2) (e1 + e2)

def Ex.abs : Ex → Ex
  | .fin m e => .fin m.natAbs e
  | .inf _ => .inf false
  | x => x

/-- A sum in the check format, in the order of the list. -/
def chkSum (l : List Ex) : Ex := l.foldl chkAdd Ex.zero

/-- The comparison of two sums against their magnitude sum (R123, R365): finite sums that differ by more than 2^-14 of it with its
constant term mismatch, and so do a finite sum and one that is not. With an infinite magnitude sum it passes. -/
def chkDiffers (a b mag : Ex) : Bool :=
  match mag with
  | .inf _ => false
  | _ =>
    match a, b, mag with
    | .fin m1 e1, .fin m2 e2, .fin m e =>
      let d := finAdd m1 e1 (-m2) e2
      let t := finAdd m e 1 (-112)
      finLt t.1 (t.2 - 14) (d.1.natAbs : Int) d.2
    | .fin _ _, .fin _ _, _ => false
    | .fin _ _, _, _ => true
    | _, .fin _ _, _ => true
    | _, _, _ => false

/-- Is a magnitude sum +inf: its row or column counts as unchecked (R365)? -/
def Ex.isInf : Ex → Bool
  | .inf _ => true
  | _ => false

end Sys2Proof.Machine
end

