-- ==== Sys2Proof/Machine/Combine.lean ====
section
/-!
DEFINITION. The rows of a COMBINE (R172-R178): what it reads at set-up, the answer blocks it takes, the order in which it applies
their rows, and the sums.
-/
namespace Sys2Proof.Machine

/-! ### The answer queue in the combining tile's store -/

def Cmd.ctxNo (c : Cmd) : Nat := fld (c.op 1) 5 0

/-- Bytes of an answer slot (Table RG-6). -/
def State.aqBytes (s : State) (c : Nat) : Nat := s.rf (rAqCfg c) 54 39 * 256

/-- `AQ_CFG.BASE`: a byte offset of which the register keeps bits [30:8] in place (Table RG-6; log entry 107). -/
def State.aqBase (s : State) (c : Nat) : Nat := s.rf (rAqCfg c) 30 8 * 256

/-- The combining tile, and the byte offset of a slot in its store (Table RG-6). -/
def State.aqTile (s : State) (c : Nat) : Nat := 48 * s.rf (rAqCfg c) 0 0 + s.rf (rAqCfg c) 6 1

def State.aqOff (s : State) (c slot : Nat) : Nat := s.aqBase c + slot * s.aqBytes c

/-- Bytes of a logical tile's store as its decoder delivers them, and whether any is poisoned. -/
def State.tileBytesAt (s : State) (t off n : Nat) : State × List Byte × Bool :=
  let x : X := { s, e := {}, run := ownRun 0 [], tile := none }
  let r := (List.range n).foldl (fun (a : X × List Byte × Bool) i =>
    let b := a.1.tileByte (t * tileBytes + off + i); (b.1, b.2.1 :: a.2.1, a.2.2 || b.2.2)) (x, [], false)
  (r.1.s, r.2.1.reverse, r.2.2)

/-! ### Set-up, rows and progress -/

/-- What COMBINE reads at set-up: header, token map, dispatch list; whether a word of the header, of a list is poisoned. -/
structure CmbSet where
  h : Nat
  tmap : List Nat
  disp : List Nat
  hbad : Bool
  bad : Bool
deriving DecidableEq, Repr

/-- `ASSIGNED` of the route header (Table ER-4). -/
def CmbSet.assigned (m : CmbSet) : Nat := bits m.h 159 128

def X.combineSet (x : X) : X × CmbSet :=
  let ds := x.run.descs
  let h := x.region (dAt ds 1) 0 64
  let t := h.1.list (dAt ds 2) (dAt ds 2).count
  let d := t.1.list (dAt ds 3) (dAt ds 3).count
  (d.1, ⟨h.2.1, t.2.1, d.2.1, h.2.2, t.2.2 || d.2.2⟩)

/-- Tokens with a served choice: the rows of Y that the batch covers. -/
def CmbSet.covered (m : CmbSet) (K : Nat) : List Nat :=
  (List.range (m.tmap.length / max K 1)).filter (fun t => ((m.tmap.drop (t * K)).take K).any (fun w => bit w 56))

/-- A row taken from a block: token, rank, expert, slot, and its elements. -/
structure CRow where
  t : Nat
  j : Nat
  blk : Nat
  w : W32
  els : List Ex
deriving DecidableEq, Repr

/-- The rows of block number `b` with its header and bytes; `none` where step 2 of R173 fails for a row. -/
def cmbRow (m : CmbSet) (K C H b hdr : Nat) (bytes : List Byte) (i : Nat) : Option CRow :=
  let e := bits hdr 47 40
  let s := bits hdr 79 64 + i
  let sz := if bit hdr 55 then 2 else 4
  let t := m.disp.getD (e * C + s) (2 ^ 32 - 1)
  if C ≤ s ∨ t = 2 ^ 32 - 1 ∨ bits hdr 93 80 ≠ H then none
  else
    match (List.range K).find? (fun j => let w := m.tmap.getD (t * K + j) 0; bit w 56 && bits w 39 32 == e) with
    | none => none
    | some j =>
      let base := 32 + i * H * sz
      some ⟨t, j, b, BitVec.ofNat 32 (m.tmap.getD (t * K + j) 0), (List.range H).map (fun k =>
        ETy.val (if bit hdr 55 then .zf16 else .za32) (leNat ((bytes.drop (base + k * sz)).take sz)))⟩

/-- Progress of a COMBINE over the rows in order: applied rows (in order of application), held rows, slots seen, failure. -/
structure CProg where
  done : List CRow := []
  held : List CRow := []
  seen : List (Nat × Nat) := []
  failed : Bool := false
deriving DecidableEq, Repr

/-- Is every served choice of a lower rank applied (R175)? -/
def CProg.ready (p : CProg) (m : CmbSet) (K : Nat) (r : CRow) : Bool :=
  (List.range r.j).all (fun j => !bit (m.tmap.getD (r.t * K + j) 0) 56 || p.done.any (fun q => q.t == r.t && q.j == j))

/-- Apply the held rows that have become ready. -/
def CProg.release (m : CmbSet) (K : Nat) : Nat → CProg → CProg
  | 0, p => p
  | f + 1, p =>
    if m.assigned ≤ p.done.length then p
    else match p.held.find? (p.ready m K) with
    | some r => CProg.release m K f { p with done := p.done ++ [r], held := p.held.erase r }
    | none => p

/-- Take one row (R173-R175); none beyond `ASSIGNED` (R172). A slot that was taken and is held counts as seen (log entry 119). -/
def CProg.take (m : CmbSet) (K : Nat) (ordered : Bool) (p : CProg) (key : Nat × Nat) (row : Option CRow) : CProg :=
  if p.failed ∨ m.assigned ≤ p.done.length then p
  else match row with
    | none => { p with failed := true }
    | some r =>
      if p.seen.contains key then { p with failed := true }
      else
        let p := { p with seen := key :: p.seen }
        if !ordered || p.ready m K r then CProg.release m K (p.held.length + 1) { p with done := p.done ++ [r] }
        else { p with held := p.held ++ [r] }

/-- Add one row into Y (R173 steps 3 and 4) with the dot-unit check of each product and sum (R178). A row of which a magnitude sum is +inf
counts once as unchecked (R365). -/
def X.cmbAdd (x : X) (y : Desc) (bad : Bool) (r : CRow) : X :=
  let z := (r.els.zipIdx).foldl (fun (a : X × Bool) p =>
    let l := p.2 + y.N0 * r.t
    let old := match y.at l with | some i => a.1.raw y 1 i | none => (a.1, 0, false)
    if bad || old.2.2 then (old.1.put y l 0 true, a.2)
    else
      let pr := mulEx (W32.ex r.w) p.1
      let p' := pr.1 ^^^ faultPat x.e.faults 0 r.t p.2
      let v := W32.ex (BitVec.ofNat 32 old.2.1)
      let sm := addEx v (W32.ex p')
      let s' := sm.1 ^^^ faultPat x.e.faults 1 r.t p.2
      let mag (terms : List Ex) : Ex := chkSum (terms.map Ex.abs)
      let off (w : W32) (terms : List Ex) : Bool := chkDiffers (W32.ex w) (chkSum terms) (mag terms)
      let t1 := [chkMul (W32.ex r.w) p.1]
      let t2 := [v, W32.ex p']
      let x := (old.1.orF (pr.2.or sm.2)).put y l s'.toNat false
      ({ x with det := x.det || off p' t1 || off s' t2 }, a.2 || (mag t1).isInf || (mag t2).isInf)) (x, false)
  { z.1 with s := z.1.s.bump cSeUnchecked (b2n z.2) }

/-- Rows of the taken blocks in order, with the key (expert, slot) of each. -/
def cmbRows (m : CmbSet) (K C H : Nat) (blocks : List (Ans × List Byte × Bool)) : List ((Nat × Nat) × Option CRow) :=
  (blocks.zipIdx).flatMap (fun b =>
    let h := leNat (b.1.2.1.take 32)
    (List.range (bits h 54 48)).map (fun i => ((bits h 47 40, bits h 79 64 + i), cmbRow m K C H b.2 h b.1.2.1 i)))

/-- Progress over the blocks taken so far. -/
def CmbSet.progress (m : CmbSet) (c : Cmd) (y : Desc) (blocks : List (Ans × List Byte × Bool)) : CProg :=
  (cmbRows m (bits m.h 43 40) (bits m.h 108 96) y.N0 blocks).foldl
    (fun p r => p.take m (bits m.h 43 40) (fbit (c.op 1) 6) r.1 r.2) {}

/-- The blocks whose every row is applied: their credits return (R169). -/
def CProg.finished (p : CProg) (blocks : List (Ans × List Byte × Bool)) (b : Nat) : Bool :=
  match blocks[b]? with
  | some k => (p.done.filter (fun r => r.blk == b)).length == bits (leNat (k.2.1.take 32)) 54 48
  | none => false

/-- The result word of COMBINE (R177); `BLOCKS_TAKEN` saturates as `STALE_SEEN` does (log entry 104). -/
def cmbWord (applied taken stale : Nat) : W64 :=
  BitVec.ofNat 64 (applied % 2 ^ 24 + satN 16 taken * 2 ^ 24 + satN 16 stale * 2 ^ 40)

/-- Is a value of Y that a row adds into poisoned? Table DI-4 counts it among COMBINE's value words. -/
def X.cmbOld (x : X) (y : Desc) (r : CRow) : X × Bool :=
  ((r.els.zipIdx).foldl (fun (a : X × Bool) p =>
    match y.at (p.2 + y.N0 * r.t) with
    | some i => let o := a.1.raw y 1 i; (o.1, a.2 || o.2.2)
    | none => a) (x, false))

/-- One execution of COMBINE over the blocks its run has taken. `cause` says why it stops; `done` counts what it wrote. A
poisoned value word poisons every output (Table DI-4). -/
def X.combine (x : X) : X :=
  let c := x.run.cmd
  let y := dAt x.run.descs 0
  let q := x.combineSet
  let m := q.2
  let bl := x.run.blocks
  let stale := (x.s.ctx c.ctxNo).stale - x.run.snap.getD 0 0
  -- rows and blocks of a poisoned header or list are not stated; the rest of the word is (R177)
  if m.hbad || m.bad then (q.1.poisonAll y).freeResult (maskW 39 0) (cmbWord 0 0 stale)
  else
    let p := m.progress c y bl
    let bad := bl.any (fun b => b.1.poison)
    let x := { q.1 with result := cmbWord p.done.length bl.length stale }
    if p.failed then { x with cause := 12 }
    else
      let o := p.done.foldl (fun (a : X × Bool) r => let v := a.1.cmbOld y r; (v.1, a.2 || v.2)) (x, bad)
      let x := p.done.foldl (fun x r => x.cmbAdd y o.2 r) o.1
      x.residue

end Sys2Proof.Machine
end

