-- ==== Sys2Proof/Machine/Link.lean ====
section
/-!
DEFINITION. Ports of the fabric (12_chaug_fabric, R320-R333): packets and flits as bytes, credits, the order in which a port
sends, routes, retraining.
-/
namespace Sys2Proof.Machine

/-! ### State of the fabric -/

/-- Range state (Table RG-7): 0 DETACHED, 1 JOINING, 2 MEMBER, 3 MASTER. -/
def State.rangeState (s : State) : Nat := s.rf rRangeStatus 1 0

/-- The member number of the module (R332). -/
def State.member (s : State) : Nat := s.rf rRangeCtl 9 0

def portReset (_ : Nat) : Port := {}
def membersReset (_ : Nat) : List Nat := []

def State.port (s : State) (p : Nat) : Port := Tab.get portReset s.fab.ports p
def State.modPort (s : State) (p : Nat) (f : Port → Port) : State :=
  { s with fab := { s.fab with ports := Tab.set portReset s.fab.ports p (f (s.port p)) } }
/-- The member list that a group's enable read (R334). -/
def State.groupList (s : State) (k : Nat) : List Nat := Tab.get membersReset s.fab.groups k
/-- The members with which the module runs a group: a DETACHED module is a range of one, and sends no Chaug traffic (R29; log entry 123). -/
def State.groupMembers (s : State) (k : Nat) : List Nat := if s.rangeState = 0 then [s.member] else s.groupList k
def State.modColl (s : State) (id : Nat) (f : Coll → Coll) : State :=
  { s with fab := { s.fab with colls := s.fab.colls.map (fun c => if c.id == id then f c else c) } }
def State.findColl (s : State) (id : Nat) : Option Coll := s.fab.colls.find? (fun c => c.id == id)
def State.dropColl (s : State) (id : Nat) : State :=
  { s with fab := { s.fab with colls := s.fab.colls.filter (fun c => c.id != id) } }

/-- Port state (R322): 0 DOWN, 1 TRAINING, 2 UP. -/
def State.portState (s : State) (p : Nat) : Nat := s.rf (rPortStatus p) 1 0
def State.portUpB (s : State) (p : Nat) : Bool := s.portState p == 2

/-! ### Packets as bytes -/

/-- The `TYPE` of a packet (Table CF-7). -/
def PKind.code : PKind → Nat
  | .leaf => 0 | .gather => 1 | .stream => 2 | .window => 3 | .grant => 4 | .poison => 5 | .ready => 6

def kindOf : Nat → Option PKind
  | 0 => some .leaf | 1 => some .gather | 2 => some .stream | 3 => some .window | 4 => some .grant | 5 => some .poison
  | 6 => some .ready | _ => none

/-- Widths of the type-specific fields from bit 64 up (Table CF-8). -/
def PKind.widths : PKind → List Nat
  | .leaf => [6, 16, 26, 8, 3]
  | .gather => [6, 16, 32]
  | .stream => [10, 16, 32, 1, 4]
  | .window => [6, 16, 26]
  | .grant => [10, 16, 32]
  | .poison => [8, 3, 32]
  | .ready => [8, 11, 32]

/-- Put fields side by side, lowest first. -/
def packF : List Nat → List Nat → Nat
  | w :: ws, v :: vs => v % 2 ^ w + 2 ^ w * packF ws vs
  | _, _ => 0

def unpackF : List Nat → Nat → List Nat
  | [], _ => []
  | w :: ws, x => x % 2 ^ w :: unpackF ws (x / 2 ^ w)

/-- Units of a packet, header included (R328). -/
def Pkt.units (p : Pkt) : Nat := 1 + p.data.length / 16

/-- The bytes of a packet (Tables CF-6, CF-8). -/
def Pkt.bytes (p : Pkt) : List Byte :=
  leBytes 16 (p.kind.code + p.units * 2 ^ 4 + p.src * 2 ^ 8 + p.dst * 2 ^ 18 + p.vc * 2 ^ 28 + p.epoch % 65536 * 2 ^ 32
    + p.pmask % 2 ^ 14 * 2 ^ 48 + packF p.kind.widths p.f * 2 ^ 64) ++ p.data

/-- Read the packets of a flit's 15 units (R328): until a unit with `TYPE` 15. Answers the packets and the units of those
discarded because their type is reserved or their length does not fit the flit, by channel (log entry 40). -/
def parseUnits : Nat → List Byte → List Pkt × List (Nat × Nat)
  | 0, _ => ([], [])
  | fuel + 1, bs =>
    if bs.length < 16 then ([], [])
    else
      let h := leNat (bs.take 16)
      let u := bits h 7 4
      if bits h 3 0 = 15 then ([], [])
      else if u = 0 ∨ bs.length < 16 * u then ([], [(bits h 30 28, bs.length / 16)])
      else
        let r := parseUnits fuel (bs.drop (16 * u))
        match kindOf (bits h 3 0) with
        | none => (r.1, (bits h 30 28, u) :: r.2)
        | some k =>
          ({ kind := k, vc := bits h 30 28, src := bits h 17 8, dst := bits h 27 18, epoch := bits h 47 32,
             pmask := bits h 61 48, f := unpackF k.widths (h / 2 ^ 64), data := (bs.take (16 * u)).drop 16 } :: r.1, r.2)

/-- A flit (Table CF-3): header fields and 240 payload bytes. -/
structure Flit where
  seq : Nat
  ack : Nat
  nak : Bool
  ctrl : Bool
  kind : Nat
  crVc : Nat
  crTotal : Nat
  payload : List Byte
deriving DecidableEq, Repr

def padTo (n : Nat) (bs : List Byte) : List Byte := (bs ++ List.replicate n 0).take n

/-- The 256 bytes of a flit (Tables CF-3, CF-4). A payload without a packet in its first unit ends there: `TYPE` 15. -/
def Flit.bytes (f : Flit) : List Byte :=
  let h := leBytes 12 (f.seq % 4096 + f.ack % 4096 * 2 ^ 12 + b2n f.nak * 2 ^ 24 + b2n f.ctrl * 2 ^ 25 + f.kind * 2 ^ 26
    + f.crVc * 2 ^ 32 + f.crTotal % 65536 * 2 ^ 36)
  let body := if f.ctrl ∨ 240 ≤ f.payload.length then f.payload else f.payload ++ [0x0F#8]
  let b := h ++ padTo 240 body
  b ++ leBytes 4 (crc32c b)

/-- Read a flit; `none` where its CRC does not match. -/
def flitOf (bs : List Byte) : Option Flit :=
  if bs.length = 256 ∧ leNat (bs.drop 252) = crc32c (bs.take 252) then
    let h := leNat (bs.take 12)
    some { seq := bits h 11 0, ack := bits h 23 12, nak := bit h 24, ctrl := bit h 25, kind := bits h 27 26,
           crVc := bits h 34 32, crTotal := bits h 51 36, payload := (bs.drop 12).take 240 }
  else none

/-! ### Sending -/

/-- The `WRR` weight of a channel (R327). -/
def State.vcWeight (s : State) (v : Nat) : Nat := s.rf (rVcCfg v) 19 16

/-- The oldest packet of a channel, if it fits `room` units and the channel's credits (R326). -/
def Port.fits (p : Port) (v room : Nat) : Option Pkt :=
  match p.sendq.find? (fun k => k.vc == v) with
  | some k => if k.units ≤ room ∧ k.units ≤ p.avail.getD v 0 then some k else none
  | none => none

/-- Take the oldest packet of channel `v` out of the send queue, with its credits. -/
def Port.take (p : Port) (k : Pkt) : Port :=
  { p with sendq := p.sendq.erase k, avail := modAt p.avail k.vc (· - k.units), owed := modAt p.owed k.vc (· + k.units) }

/-- Weighted round-robin over VC1-VC6 (R327): the channel in turn while it has sends left, then the next that has a packet
that fits. -/
def State.wrrPick (s : State) (p : Port) (room : Nat) : Option (Pkt × (Nat × Nat)) :=
  let cur := p.wrr.1
  match (if p.wrr.2 = 0 then none else p.fits cur room) with
  | some k => some (k, (cur, p.wrr.2 - 1))
  | none =>
    let order := (List.range 6).map (fun i => (cur - 1 + 1 + i) % 6 + 1)
    match order.find? (fun v => (p.fits v room).isSome) with
    | some v => (p.fits v room).map (fun k => (k, (v, s.vcWeight v - 1)))
    | none => none

/-- Fill a flit (R327): VC0, then VC7, then VC1-VC6. -/
def State.fillFlit (s : State) : Nat → Nat → Port → List Pkt × Port
  | 0, _, p => ([], p)
  | fuel + 1, room, p =>
    match p.fits 0 room with
    | some k => let r := State.fillFlit s fuel (room - k.units) (p.take k); (k :: r.1, r.2)
    | none =>
      match p.fits 7 room with
      | some k => let r := State.fillFlit s fuel (room - k.units) (p.take k); (k :: r.1, r.2)
      | none =>
        match s.wrrPick p room with
        | some (k, w) => let r := State.fillFlit s fuel (room - k.units) { p.take k with wrr := w }; (k :: r.1, r.2)
        | none => ([], p)

/-- Header fields of the next flit of a port: acknowledgement, NAK, and the total of the channel whose change has waited
longest (R325). -/
def Port.header (p : Port) (seq : Nat) (payload : List Byte) : Flit × Port :=
  let v := p.unreported.headD 0
  ({ seq, ack := (p.rxSeq + 4095) % 4096, nak := p.nakOwed, ctrl := false, kind := 0, crVc := v,
     crTotal := p.ret.getD v 0, payload },
   { p with nakOwed := false, ackOwed := false, unreported := p.unreported.drop 1 })

def State.onWire (s : State) (p : Nat) (f : Flit) : State := { s with fab := { s.fab with wire := s.fab.wire ++ [(p, f.bytes)] } }

/-- Send flits on a port while packets fit their credits and the retry buffer has room (R324, R327). -/
def State.pumpGo : Nat → State → Nat → State
  | 0, s, _ => s
  | fuel + 1, s, p =>
    let pt := s.port p
    if 1024 ≤ pt.retry.length then s
    else
      let r := s.fillFlit 15 15 pt
      if r.1.isEmpty then s
      else
        let h := r.2.header pt.txSeq (r.1.flatMap Pkt.bytes)
        let pt' := { h.2 with txSeq := (pt.txSeq + 1) % 4096, retry := pt.retry ++ [(pt.txSeq, r.1)] }
        State.pumpGo fuel ((s.modPort p (fun _ => pt')).onWire p h.1) p

/-- Idle flits carry what is left to report: acknowledgement, NAK, credit totals (R323). -/
def State.idleGo : Nat → State → Nat → State
  | 0, s, _ => s
  | fuel + 1, s, p =>
    let pt := s.port p
    if pt.nakOwed || pt.ackOwed || !pt.unreported.isEmpty then
      let h := pt.header pt.txSeq []
      State.idleGo fuel ((s.modPort p (fun _ => h.2)).onWire p h.1) p
    else s

/-- A port sends what it can. -/
def State.pump (s : State) (p : Nat) : State :=
  if s.portUpB p then
    let s := State.pumpGo (s.port p).sendq.length s p
    State.idleGo 9 s p
  else s

/-- The hash of a data packet's route (R333; log entry 20). -/
def Pkt.hash (k : Pkt) : Nat :=
  match k.kind with
  | .stream => Config.routeHash k.dst (1024 + k.f.getD 0 0) 0
  | _ => Config.routeHash k.dst (k.f.getD 0 0) (k.f.getD 1 0)

/-- UP ports that lead to a member, lowest first (R333). -/
def State.upPorts (s : State) (m : Nat) : List Nat :=
  (List.range 18).filter (fun p => s.rb (rRouteMask m) p && s.portUpB p)

/-- Control packets (Table CF-5, VC0). -/
def PKind.control : PKind → Bool
  | .window | .grant | .poison | .ready => true
  | .leaf | .gather | .stream => false

/-- The port on which a packet leaves (R333). -/
def State.portFor (s : State) (k : Pkt) : Option Nat :=
  let ps := s.upPorts k.dst
  if k.kind.control then ps.head? else if ps.isEmpty then none else ps[k.hash % ps.length]?

/-- Give a packet to its port; a packet whose mask has no UP port waits (R333). -/
def State.enqueue (s : State) (k : Pkt) : State :=
  match s.portFor k with
  | some p => s.modPort p (fun t => { t with sendq := t.sendq ++ [k] })
  | none => { s with fab := { s.fab with waiting := s.fab.waiting ++ [k] } }

/-- Send a packet. -/
def State.send (s : State) (k : Pkt) : State :=
  match s.portFor k with
  | some p => (s.enqueue k).pump p
  | none => s.enqueue k

/-- Packets that waited for a route try again. -/
def State.sendWaiting (s : State) : State :=
  s.fab.waiting.foldl State.send { s with fab := { s.fab with waiting := [] } }

/-! ### Links going down and up -/

/-- A packet that was in the retry buffer of a lost port moves to the next UP port of its mask, counted upwards from the lost one
and around (log entry 41), on VC7; it waits where there is none (R331). -/
def State.resend (s : State) (p : Nat) (k : Pkt) : State :=
  let k := { k with vc := 7 }
  let ps := s.upPorts k.dst
  match (ps.find? (fun q => decide (p < q))).orElse (fun _ => ps.head?) with
  | some q => (s.modPort q (fun t => { t with sendq := t.sendq ++ [k] })).pump q
  | none => { s with fab := { s.fab with waiting := s.fab.waiting ++ [k] } }

/-- What a port loses when its link goes down (R331): packets of its retry buffer are resent; packets not yet sent take another route
or wait. Its receive buffer stays. -/
def State.linkLost (s : State) (p : Nat) (st : Nat) : State :=
  let pt := s.port p
  let s := s.setReg (rPortStatus p) (BitVec.ofNat 64 st)
  let s := s.modPort p (fun t => { ({} : Port) with rx := t.rx, oldRx := t.rx.length, since := s.now, creditErr := t.creditErr,
                                                    adv := t.adv, rxFree := t.rxFree })
  let s := (pt.retry.flatMap (·.2)).foldl (fun s k => s.resend p k) s
  pt.sendq.foldl State.send s

/-- A port retrains (R324, R325, R461). -/
def State.retrain (s : State) (p : Nat) : State := s.linkLost p (if s.rb (rPortCfg p) 0 then 1 else 0)

/-- A received packet's units leave the buffer of its channel, or take it (`u` negative). -/
def Port.room (t : Port) (v : Nat) (u : Int) : Port := { t with rxFree := modAt t.rxFree v (· + u) }

/-- Units of a received packet return to the sender: the total on its channel rises, and its change is the newest (R325, R326). -/
def Port.give (t : Port) (v u : Nat) : Port :=
  { t with ret := modAt t.ret v (fun x => (x + u) % 65536), unreported := t.unreported.filter (· != v) ++ [v] }

/-! ### Receive streams: grants (R360) -/

def State.streamRing (s : State) (n : Nat) : Nat := (s.rf (rStreamCfg n) 43 36 + 1) * 4096

/-- Send GRANT to the stream's sender with the limit that the ring allows. -/
def State.grantStream (s : State) (n : Nat) : State :=
  let t := s.stream n
  let lim := (t.consumed + s.streamRing n - t.base) / 16
  if t.known && decide (t.limit < lim) then
    let s := s.modStream n (fun t => { t with limit := lim, free := t.free - 16 * (lim - t.limit) })
    s.send { kind := .grant, vc := 0, src := s.member, dst := t.sender, epoch := s.rf (rStreamEpoch n) 15 0, f := [n, t.burst, lim] }
  else s

/-- A consumer has taken bytes of a stream (R359, R360): their ring space is free, and the sender hears of it. -/
def State.consumeStream (s : State) (n bytes : Nat) : State :=
  let s := s.modStream n (fun t => { t with consumed := t.consumed + bytes, free := t.free + bytes })
  (s.setReg (rStreamBytes n) (BitVec.ofNat 64 ((s.reg (rStreamBytes n)).toNat - bytes))).grantStream n

/-! ### Messages of other chapters -/

/-- The seal group of a domain (R342): its members, or none when the module seals alone, as it does when it has detached
(R340). -/
def State.sealGroup (s : State) (d : Nat) : List Nat :=
  let k := s.rf (rSealGroup d) 5 0
  if s.rangeState != 0 && s.rb (rSealGroup d) 8 && s.rb (rCgroupCtl k) 24 then s.groupMembers k else []

/-- Send one POISON packet to every other member of the seal group (R343). -/
def State.sendPoison (s : State) (d step cause : Nat) : State :=
  ((s.sealGroup d).filter (· != s.member)).foldl (fun s m =>
    s.send { kind := .poison, vc := 0, src := s.member, dst := m, f := [d, cause, step] }) s

end Sys2Proof.Machine
end

