-- ==== Sys2Proof/Machine/Contain.lean ====
section
/-!
DEFINITION. Events that end work: epoch advances (R180-R182), STEP_POISON (R276, R277), refused Seals and abandonment
(Table TS-6, R278), Contained faults (R420, R421), Fatal faults (R423). Each is one operation that the commands share.
-/
namespace Sys2Proof.Machine

/-! ### Runs -/

/-- The event of a running command (R424): master, command. -/
def State.runEv (s : State) (r : Run) (src cause : Nat) : Ev :=
  { cls := 2, src, dom := some r.cmd.dom, mkind := (s.master r.unit).1, mid := (s.master r.unit).2, cmd := some r.cmd,
    detail := cause }

/-- Does a run cover a row of a written operand: a decode HMUL the rows it takes, none of an overrun ring (R119, R120); a COMBINE the
rows of Y that its batch covers, which `snap` lists after the stale count once it has read its header (R177, R181)? -/
def Run.covers (r : Run) (row : Nat) : Bool :=
  if r.cmd.opcode = oCombine then (r.snap.drop 1).contains row
  else if r.cmd.opcode = oHmul then r.snap.getD 3 0 != 1 && decide (row < r.snap.getD 1 (row + 1))
  else true

/-- Every byte place of those operands of a run that `p` selects by what is done with them, within what it covers. -/
def Run.locsOf (r : Run) (p : Dir → Bool) : List Nat :=
  (r.cmd.hands.zip r.descs).flatMap (fun hd =>
    match hd.2 with
    | some d => if p hd.1.dir && decide (d.space ≤ 1) then d.locs r.unit.tile r.pages (fun i => r.covers (d.lamOf i / d.N0 % d.N1)) else []
    | none => [])

/-- Every byte place of the written operands of a run. -/
def Run.outLocs (r : Run) : List Nat := r.locsOf (fun d => d == .wr || d == .rw)

/-- What the Cocoon retains of the elements that a run overwrites in accumulate mode, and of a COMBINE's Y (R178, R274). -/
def State.retain (s : State) (r : Run) : List (Nat × Byte × Bool) := s.seeLocs (r.locsOf (· == .rw))

/-- Discard the outputs of a run: the elements it covers hold unspecified values (R111, R223; log entry 1). -/
def State.discard (s : State) (r : Run) : State := s.freeLocs r.outLocs

/-- Flags of a completed command join those of its tile (R81). -/
def State.joinTileFlags (s : State) (u : Unit') (f : Flags) : State :=
  match u.tile with
  | some t => s.setRf (rTileFlags t) 3 0 (s.rf (rTileFlags t) 3 0 ||| f.toNat)
  | none => s

/-! ### Answer-queue credits and epochs -/

def State.ctxDom (s : State) (c : Nat) : Nat := s.rf (rRouteCtl c) 15 8
def State.ctxOn (s : State) (c : Nat) : Bool := s.rb (rRouteCtl c) 0
def State.epoch (s : State) (c : Nat) : Nat := s.rf (rRouteEpoch c) 15 0
def State.aqSlots (s : State) (c : Nat) : Nat := s.rf (rAqCfg c) 38 31 + 1

/-- Advances that waited take effect once no credit holds the next epoch (R182). -/
def State.settleEpochGo : Nat → State → Nat → State
  | 0, s, _ => s
  | fuel + 1, s, c =>
    let x := s.ctx c
    if x.pend = 0 then s.setRb (rRouteEpoch c) 16 false
    else
      let n := (s.epoch c + 1) % 65536
      if x.held.any (fun h => h.2.1 == n) then s.setRb (rRouteEpoch c) 16 true
      else State.settleEpochGo fuel ((s.setRf (rRouteEpoch c) 15 0 n).modCtx c (fun x => { x with pend := x.pend - 1 })) c

def State.settleEpoch (s : State) (c : Nat) : State := State.settleEpochGo ((s.ctx c).pend + 1) s c

/-- A block leaves the context and its credit returns (R169, R171). -/
def State.creditBack (s : State) (c : Nat) : State := s.modCtx c (fun x => { x with credits := x.credits + 1 })

/-- A transfer that held a credit gives it back without a block in the queue: counted stale (R182). -/
def State.dropHeld (s : State) (id : Nat) : State :=
  (List.range 64).foldl (fun s c =>
    let x := s.ctx c
    if x.held.any (fun h => h.1 == id) then
      let s := s.modCtx c (fun x => { x with held := x.held.filter (fun h => h.1 != id),
                                             inflight := x.inflight.filter (fun a => a.id != id),
                                             stale := x.stale + 1 })
      ((s.creditBack c).bump (cRouteStale c) 1).settleEpoch c
    else s) s

/-- An unspecified choice among rows: for each the next free value decides (R181; log entry 1). -/
def State.someRows (s : State) : List CRow → State × List CRow
  | [] => (s, [])
  | w :: ws =>
    let v := s.freeWord
    let r := State.someRows v.2 ws
    (r.1, if fbit v.1 0 then w :: r.2 else r.2)

/-- A COMBINE of the context that runs at an advance stops with `CANCELLED` (R181): the rows of Y that its batch covers hold their
initial values plus an unspecified subset of the contributions of the blocks it has taken, which its result word counts (R177). -/
def State.cancelCombine (s : State) (c : Nat) : State :=
  match s.runs.find? (fun r => r.cmd.opcode == oCombine && r.cmd.ctxNo == c && r.st != .executed) with
  | none => s
  | some r =>
    let y := dAt r.descs 0
    let q := ((s.putLocs r.kept).ownX r r.unit.tile).combineSet
    let ch := q.1.s.someRows (if r.setUp then (q.2.progress r.cmd y r.blocks).done else [])
    let x := ch.2.foldl (fun x w => x.cmbAdd y (r.blocks.any (·.1.poison)) w) { q.1 with s := ch.1 }
    ((x.flush.s.dropRun r.cmd.id).joinTileFlags r.unit x.flags).complete r.cmd
      { status := 3, cause := 11, flags := x.flags, aliased := r.cmd.aliased r.descs
        result := cmbWord ch.2.length r.blocks.length ((s.ctx c).stale - r.snap.getD 0 0) } false

/-- The live epoch of a context advances (R180, R181). An advance that has to wait (R182) discards the queued blocks and cancels a running
COMBINE at once (log entry 70). -/
def State.advanceEpoch (s : State) (c : Nat) : State :=
  let n := (s.ctx c).queue.length
  let s := s.modCtx c (fun x => { x with queue := [], credits := x.credits + n, stale := x.stale + n, pend := x.pend + 1 })
  let s := s.bump (cRouteStale c) n
  (s.cancelCombine c).settleEpoch c

/-- What is done to every context of a domain, enabled or not (R168, R180). -/
def State.eachCtx (s : State) (d : Nat) (f : State → Nat → State) : State :=
  (List.range 64).foldl (fun s c => if s.ctxDom c == d then f s c else s) s

/-- The contexts of a domain advance (R180). -/
def State.advanceAll (s : State) (d : Nat) : State := s.eachCtx d State.advanceEpoch

/-- A Draught bias, live (R158). -/
def State.bias (s : State) (c e : Nat) : W32 :=
  BitVec.ofNat 32 (s.rf (rBias c e) (32 * (e % 2) + 31) (32 * (e % 2)))
def State.setBias (s : State) (c e : Nat) (v : W32) : State := s.setRf (rBias c e) (32 * (e % 2) + 31) (32 * (e % 2)) v.toNat
def State.experts (s : State) (c : Nat) : Nat := s.rf (rRouteCtl c) 24 16

/-- Copy the live biases of a context to the staged ones, or back (R168). -/
def State.stageBiases (s : State) (c : Nat) : State :=
  s.modCtx c (fun x => { x with staged := (List.range (s.experts c)).foldl (fun t e => Tab.set w32Reset t e (s.bias c e)) [] })
def State.liveBiases (s : State) (c : Nat) : State :=
  (List.range (s.experts c)).foldl (fun s' e => s'.setBias c e (Tab.get w32Reset (s.ctx c).staged e)) s

/-! ### The update feed -/

/-- A block leaves the feed queue or a batch: its credit returns (R290, R352). -/
def Upd.credit (u : Upd) : Upd := { u with feedFree := u.feedFree + 1 }

/-- What a 128-byte staged record says of its block (R352); one that is read poisoned is a poisoned block. -/
def recordBlock (d : Nat) (bs : List Byte) (bad : Bool) : GBlk :=
  let num (i n : Nat) := leNat ((bs.drop i).take n)
  let fl := num 77 1
  let ty : ETy := if bit fl 1 then .zg8 else .zg16
  let elems := (List.range 32).map (fun i => num (i * ty.size) ty.size)
  let poison := bad || bit fl 2
  { dom := d, step := num 68 4, g := num 64 4, wide := !bit fl 1, elems, scale := signed 8 (num 76 1), poison
    ofMark := !poison && bit fl 0, nan := !poison && elems.any (fun e => (ty.val e).isNan), rho := BitVec.ofNat 32 (num 72 4) }

/-- The staged records enter the feed queue in the order in which their blocks closed, one a credit: each is read from the stack (R25, R352; log
entry 134). -/
def State.refillGo : Nat → State → State
  | 0, s => s
  | n + 1, s =>
    match s.upd.staged with
    | [] => s
    | r :: rs =>
      if s.upd.feedFree = 0 then s
      else
        let v := (s.ownX (ownRun r.dom r.pages) none).readWords .va r.va 1 128
        let b := recordBlock r.dom (v.2.1.map (BitVec.ofNat 8)) v.2.2
        let t := v.1.crossed
        State.refillGo n { t with upd := { t.upd with staged := rs, feed := t.upd.feed ++ [b], feedFree := t.upd.feedFree - 1 } }
def State.refill (s : State) : State := State.refillGo s.upd.staged.length s

/-- Blocks of a step that wait at the network interface or in a batch are discarded and counted (R277). -/
def State.dropBlocks (s : State) (d step : Nat) : State :=
  let mine (b : GBlk) := b.dom == d && b.step == step
  let other (r : StagedRec) := !(r.dom == d && r.step == step)
  let u := s.upd
  let n := (u.feed.filter mine).length + (u.batch.filter (fun m => mine m.blk)).length
  let k := (u.staged.filter other).length
  let u := { u with feed := u.feed.filter (fun b => !mine b), batch := u.batch.filter (fun m => !mine m.blk),
                    staged := u.staged.filter other, feedFree := u.feedFree + n }
  (({ s with upd := u }).bump (cStepDiscard d) (n + (s.upd.staged.length - k))).refill

/-! ### STEP_POISON -/

def State.stepState (s : State) (d : Nat) : Nat := s.rf (rStepState d) 2 0
def State.setStepState (s : State) (d st : Nat) : State := s.setRf (rStepState d) 2 0 st

/-- Is a step of the domain open: COMPUTE, REDUCE or UPDATE (Table TS-4)? -/
def State.stepOpenB (s : State) (d : Nat) : Bool := s.stepState d == 1 || s.stepState d == 2 || s.stepState d == 3

def State.modStep (s : State) (d : Nat) (f : StepSt → StepSt) : State :=
  s.modDom d (fun x => { x with step := x.step.map f })

/-- STEP_POISON of a step is set on this module (R276, R277): the first raise is recorded; waiting blocks are discarded. -/
def State.setPoison (s : State) (d step cause src : Nat) : State :=
  match (s.dom d).step with
  | some st =>
    if st.number = step ∧ s.stepOpenB d then
      if st.poison.isSome then s
      else (s.modStep d (fun x => { x with poison := some (cause, src) })).dropBlocks d step
    else s
  | none => s

/-- The module raises STEP_POISON itself: the seal group hears of it (R276, R343). -/
def State.raisePoison (s : State) (d step cause : Nat) : State :=
  match (s.dom d).step with
  | some st =>
    if st.number = step ∧ s.stepOpenB d then (s.setPoison d step cause s.member).sendPoison d step cause else s
  | none => s

/-! ### Memory written outside commands -/

/-- Write bytes at a VA. -/
def X.poke (x : X) (va : Int) (bs : List Byte) : State :=
  (bs.foldl (fun (a : X × Int) b => (a.1.putByte .va a.2 b false, a.2 + 1)) (x, va)).1.flush.s

/-- A Grate unit writes bytes at a VA through kept translations: it crosses no interface. -/
def State.poke (s : State) (d : Nat) (pages : List Page) (va : Int) (bs : List Byte) : State :=
  ({ s, e := {}, run := ownRun d pages, tile := none } : X).poke va bs

/-- Read `n` bytes at a VA through kept translations, as a number; poisoned if any byte is. -/
def State.peek (s : State) (e : Env) (d : Nat) (pages : List Page) (va : Int) (n : Nat) : State × Nat × Bool :=
  let x : X := { s, e, run := ownRun d pages, tile := none }
  let r := x.read .va 1 va n
  (r.1.s, r.2.1, r.2.2)

/-! ### Contribution ledger and late windows -/

/-- Index of the newest ledger entry of a step (R358). -/
def State.cledIx (s : State) (d step : Nat) : Option Nat :=
  (List.range 4).find? (fun i => s.rb (rCledger d i 0) 32 && s.rf (rCledger d i 0) 31 0 == step)

/-- Add to count `w` (1 EXPECTED ... 9 STAGED) of a step's entry. -/
def State.cledAdd (s : State) (d step w : Nat) (n : Int) : State :=
  match s.cledIx d step with
  | some i => s.setReg (rCledger d i w) (BitVec.ofNat 64 ((((s.reg (rCledger d i w)).toNat : Int) + n) % (2 ^ 48 : Nat)).toNat)
  | none => s

/-- The owner has closed one more block of a step: the count that STAGED is held to (R358). -/
def State.countClosed (s : State) (d step : Nat) : State :=
  let n := ((s.fab.closedBlks.find? (fun e => e.1 == (d, step))).map (·.2)).getD 0
  { s with fab := { s.fab with closedBlks := ((d, step), n + 1) :: s.fab.closedBlks.filter (fun e => e.1 != (d, step)) } }

/-- A new entry for a step: the older three move on (R267, R358). -/
def State.cledOpen (s : State) (d step : Nat) : State :=
  let s := { s with fab := { s.fab with closedBlks := s.fab.closedBlks.filter (fun e => e.1 != (d, step)) } }
  let s := [2, 1, 0].foldl (fun s i => s.setRegs (rCledger d (i + 1) 0) ((List.range 10).map (fun w => s.reg (rCledger d i w)))) s
  s.setRegs (rCledger d 0 0) (BitVec.ofNat 64 (step + 2 ^ 32) :: List.replicate 9 0#64)

/-- The late window of a reduction closes (R357, R358): absent leaves count UNARRIVED; held leaves that the next step's
reduction added count LATE_ADDED, the others LATE_DROPPED; their slots are cleared. -/
def State.closeWindow (s : State) (w : LateWin) : State :=
  let n : Int := w.absent.length
  let used := w.held.filter (fun l => w.used.contains (l.1, l.2.2.1))
  let a : Int := used.length
  let h : Int := w.held.length
  let s := (s.cledAdd w.dom w.step 7 n).cledAdd w.dom w.step 8 (-n)
  let s := ((s.cledAdd w.dom w.step 5 a).cledAdd w.dom w.step 6 (h - a)).cledAdd w.dom w.step 4 (-h)
  w.held.foldl (fun s l =>
    (s.ownX (ownRun w.dom w.pages) none).poke (w.va + (((w.step % 2) * w.q * w.lateSlots + l.1 * w.lateSlots + l.2.1) * 80 : Nat)) (List.replicate 80 0)) s

/-- Close the late windows of a domain that `p` selects. -/
def State.closeLate (s : State) (d : Nat) (p : LateWin → Bool) : State :=
  let s := (s.fab.lates.filter (fun w => w.dom == d && p w)).foldl State.closeWindow s
  { s with fab := { s.fab with lates := s.fab.lates.filter (fun w => !(w.dom == d && p w)) } }

/-- After a refused Seal the held leaves of the step before stay for the rerun (R357). -/
def State.unuseLate (s : State) (d : Nat) : State :=
  { s with fab := { s.fab with lates := s.fab.lates.map (fun w => if w.dom == d then { w with used := [] } else w) } }

/-! ### The end of a step -/

def fifoReset (_ : Nat) : List GReq := []

/-- The FIFO of a stack's Grate unit, oldest request first (R234). -/
def State.fifo (s : State) (k : Nat) : List GReq := Tab.get fifoReset s.upd.grate k
def State.setFifo (s : State) (k : Nat) (l : List GReq) : State :=
  { s with upd := { s.upd with grate := Tab.set fifoReset s.upd.grate k l } }

/-- A source sends a request to the stacks that it needs and do not hold it yet, to all of them at once; a FIFO of 512 entries that is full
holds the source back (R234). So no two requests stand crosswise in two FIFOs. -/
def State.askAll (s : State) (r : GReq) (ks : List Nat) : State :=
  let new := ks.filter (fun k => !(s.fifo k).contains r)
  if new.any (fun k => decide (512 ≤ (s.fifo k).length)) then s else new.foldl (fun s k => s.setFifo k (s.fifo k ++ [r])) s
def State.ask (s : State) (r : GReq) (k : Nat) : State := s.askAll r [k]

/-- Is a request the next one that a Grate unit serves? -/
def State.serves1 (s : State) (r : GReq) (k : Nat) : Bool := (s.fifo k).head? == some r

/-- A request leaves every FIFO: it has been served, or its source has stopped. -/
def State.unask (s : State) (r : GReq) : State :=
  (List.range 24).foldl (fun s k => if (s.fifo k).contains r then s.setFifo k ((s.fifo k).erase r) else s) s

/-- A Grate unit serves what came to it before (R234): the request of a source is served once it is the oldest at each of its stacks;
until then it waits in their FIFOs. -/
def State.atGrate (s : State) (r : GReq) (ks : List Nat) (f : State → State) : State :=
  if ks.all (fun k => (s.fifo k).isEmpty || s.serves1 r k) then f (s.unask r) else s.askAll r ks

/-- The micro-command of a request. -/
def GReq.ucmd : GReq → Option Ucmd
  | .micro u => some u
  | _ => none

/-- Micro-commands of a domain outstanding at Grate units (R271, R293). -/
def State.ucmds (s : State) (d : Nat) : Nat :=
  ((List.range 24).map (fun k => (((s.fifo k).filterMap GReq.ucmd).filter (fun m => m.dom == d)).length)).sum

/-- The block count of a parameter map (R287). -/
def PMap.blocks (m : PMap) : Nat := ((m.regions.filter (fun r => r.kind == 0)).map (·.nb)).sum

def State.pmap (s : State) (d : Nat) : Option PMap := Tab.get (fun _ => none) s.upd.maps d

/-- Write the applied-block map of a refused step in direct mode (R268, R272): bit i for position i of the map. Its bits count as
written elements (R207); STEP_OPEN has made sure that its pages can be written. -/
def State.writeAmap (s : State) (d : Nat) (st : StepSt) : State :=
  match st.amap, s.pmap d with
  | some (ds, pages), some m =>
    let x := s.ownX (ownRun d pages) none
    let y := ((List.range m.blocks).foldl (fun x i => x.put ds i (b2n (st.applied.contains i)) false) x).flush
    (((y.s.bump (cWrOffered d) y.offered).bump (cWrDone d) y.done).bump (cOobWrite d) y.dropped)
  | _, _ => s

/-- The result word of STEP_SEAL (Table TS-7). -/
def StepSt.result (st : StepSt) (code applied : Nat) : W64 :=
  let p := st.poison.getD (0, 0)
  BitVec.ofNat 64 (code + p.1 * 2 ^ 3 + p.2 % 1024 * 2 ^ 16 + min applied (2 ^ 32 - 1) * 2 ^ 32)

/-- The step is over: state IDLE, and what it reports (Table TS-6, R273, R278). A refused or abandoned step counts in
`STEP_REFUSED_COUNT`; an abandoned one writes `STEP_RESULT`; a STEP_SEAL that still stands completes. -/
def State.endStep (s : State) (d : Nat) (code applied : Nat) : State :=
  match (s.dom d).step with
  | none => s
  | some st =>
    let w := st.result code applied
    let s := s.modDom d (fun x => { x with step := none })
    let s := s.setStepState d 0
    let s := if code = 0 then s else s.bump (cStepRefused d) 1
    let s := if st.abandoned then (s.setReg (rStepResult d) w).bump (cStepAbandon d) 1 else s
    match st.sealId with
    | none => s
    | some id =>
      match (List.range 160).find? (fun q => match s.head q with | some h => h.cmd.id == id | none => false) with
      | some q => s.completeHead q { flags := st.flags, result := w }
      | none => s

/-- Is a packet the READY of a step (R271)? -/
def StepSt.ownReady (st : StepSt) (d : Nat) (k : Pkt) : Bool :=
  k.kind == .ready && k.f.getD 0 0 == d && k.f.getD 2 0 == st.number

/-- The stacks whose journals hold entries of a step. -/
def StepSt.stacks (st : StepSt) : List Nat := (st.journal.map (·.1)).eraseDups

/-- The rollback of a domain stands in the FIFO of each stack whose journal holds entries of its step, and in no other (R234, R310). -/
def State.askRoll (s : State) (d : Nat) : State :=
  let ks := match (s.dom d).step with
    | some st => st.stacks
    | none => []
  ((List.range 24).foldl (fun s k =>
    if !ks.contains k && (s.fifo k).contains (.roll d) then s.setFifo k ((s.fifo k).erase (.roll d)) else s) s).askAll (.roll d) ks

/-- A refused Seal (Table TS-6): biases restored, windows emptied; guarded mode starts the rollback, direct mode writes the
applied-block map and ends the step. -/
def State.refuseSeal (s : State) (d : Nat) : State :=
  match (s.dom d).step with
  | none => s
  | some st =>
    let s := s.eachCtx d (fun s c => (s.stageBiases c).modCtx c (fun x => { x with load := [] }))
    let s := (s.closeLate d (fun w => w.step == st.number)).unuseLate d
    if st.direct then
      (s.writeAmap d st).endStep d (if st.abandoned then 4 else 2) st.applied.length
    else
      ((s.setStepState d 4).modStep d (fun x => { x with rolling := true })).askRoll d

/-- The last steps of an abandonment, once no micro-command of the domain is outstanding (R278, steps 3-6). -/
def State.endAbandon (s : State) (d : Nat) : State :=
  match (s.dom d).step with
  | some st =>
    if st.abandoned && !st.rolling && s.ucmds d == 0 then (s.advanceAll d).refuseSeal d else s
  | none => s

/-- A step is abandoned (R278, steps 2-6); its commands have been stopped. -/
def State.abandon (s : State) (d : Nat) : State :=
  match (s.dom d).step with
  | some st =>
    let s := if st.ready || (s.sealGroup d).isEmpty then s
      else { s with fab := { s.fab with readyDue := s.fab.readyDue ++ [(d, st.number)] } }
    let s := s.modStep d (fun x => { x with abandoned := true, ready := true, sealId := none })
    (s.raisePoison d st.number 4).endAbandon d
  | none => s

/-! ### Contained faults -/

/-- Leaf slots that a leaf of an element type takes in the reduction store (R353). -/
def slotsOf (ety : Nat) : Nat := if ety = 4 then 2 else 1

/-- The leaf slots of a collective return to the reduction store. -/
def State.freeLeaves (s : State) (c : Coll) : State :=
  { s with fab := { s.fab with storeFree := s.fab.storeFree + c.leaves.length * slotsOf c.ety } }

/-- A standing collective ends; its leaves leave the reduction store. -/
def State.freeColl (s : State) (id : Nat) : State :=
  match s.findColl id with
  | some c => (s.dropColl id).freeLeaves c
  | none => s

/-- The array of a physical tile has just run (R52). -/
def State.arrayUsed (s : State) (p : Nat) : State :=
  { s with pipe := { s.pipe with arrayBusy := Tab.set natReset s.pipe.arrayBusy p (s.now + 1) } }

/-- The arrays that a run uses have just run: of its tile, and in twin mode of the odd one (R52, R373). -/
def State.usedBy (s : State) (r : Run) : State :=
  match r.cmd.opcode == oHmul, r.unit.tile with
  | true, some t =>
    let s := s.arrayUsed (s.physOf t)
    if s.rb (rTwinCtl r.cmd.dom) 0 then s.arrayUsed (s.physOf (t + 1)) else s
  | _, _ => s

/-- Take the packets that `p` selects out of those that wait to be sent. -/
def State.dropUnsent (s : State) (p : Pkt → Bool) : State :=
  let s := { s with fab := { s.fab with waiting := s.fab.waiting.filter (fun k => !p k) } }
  (List.range 18).foldl (fun s i => s.modPort i (fun t => { t with sendq := t.sendq.filter (fun k => !p k) })) s

/-- Is a packet one of the bursts that a BROADCAST sends (R360)? -/
def Coll.ofBurst (c : Coll) (k : Pkt) : Bool :=
  c.toStream && k.kind == .stream && k.f.getD 0 0 == c.stream &&
  (c.members.zip c.grants).any (fun g => g.1 == k.dst && g.2 == some (k.f.getD 1 0, k.epoch))

/-- A command that is stopped sends nothing more of its bursts (R363); what it has sent and a lost link has given back is resent. -/
def State.quietBurst (s : State) (id : Nat) : State :=
  match s.findColl id with
  | some c => if c.toStream then s.dropUnsent (fun k => c.ofBurst k && k.vc != 7) else s
  | none => s

/-- A running command is stopped and its outputs and flags discarded (R82, R420 step 2). -/
def State.stopRun (s : State) (r : Run) (cause : Nat) : State :=
  let s := if r.st = .admitted ∧ r.snap.getD 3 0 ≠ 1 then s.usedBy r else s
  let s := (((((s.quietBurst r.cmd.id).unask (.job r.cmd.id)).dropRun r.cmd.id).freeColl r.cmd.id)).dropHeld r.cmd.id
  (s.discard r).complete r.cmd { status := 4, cause := cause, aliased := r.cmd.aliased r.descs } false

/-- Steps 1-4 of R420: the domain is FAULTED, its running commands stop (each with the cause named for it, else 0), its
queues are flushed, its fetch stops. A continuation that waits at its queue's head is flushed with it: it completes with status
FLUSHED, and the rows it has written stay with their flags (R82; log entry 83). -/
def State.stopDomain (s : State) (d : Nat) (causes : List (Nat × Nat)) : State :=
  let s := s.setRb (rDomCtl d) 2 true
  let s := (s.runs.filter (fun r => r.cmd.dom == d)).foldl (fun s r =>
    s.stopRun r (((causes.find? (fun c => c.1 == r.cmd.id)).map (·.2)).getD 0)) s
  let s := (List.range 160).foldl (fun s q =>
    let v := s.queue q
    let mine := v.ents.filter (fun h => h.cmd.dom == d)
    if mine.isEmpty then s
    else
      let s := s.setQueue q { v with ents := v.ents.filter (fun h => h.cmd.dom != d) }
      mine.foldl (fun s h =>
        let fl := (h.cont.map (·.flags)).getD {}
        (if isTileQ q then s.joinTileFlags (.skipper q) fl else s).complete h.cmd { status := 5, flags := fl } false) s) s
  (List.range 64).foldl (fun s r => if s.rf (rRingCfg r) 15 8 == d then s.setRing r { s.ring r with buf := [], asked := 0 } else s) s

/-- Events of a FAULTED domain counted since its last record (R421). -/
def State.setSupp (s : State) (d n : Nat) : State :=
  { s with flt := { s.flt with suppressed := Tab.set natReset s.flt.suppressed d n } }

/-- A Contained fault on the job of domain d (R420, R421). An event of a domain that is FAULTED is folded, and latched where it is a
first one (R425). After a Fatal fault nothing runs that would have to be stopped. -/
def State.contained (s0 : State) (d : Nat) (e0 : Ev) (causes : List (Nat × Nat)) : State :=
  let e := { e0 with cls := 2, dom := some d }
  let s := (s0.bump (cDomFault d) 1).smokePulse
  let n := Tab.get natReset s.flt.suppressed d
  if s.faulted d then (s.latchOnly e).setSupp d (n + 1)
  else
    let s := if s.flt.fatal then s.setRb (rDomCtl d) 2 true
      else
        let s := s.stopDomain d causes
        if s.stepOpenB d then s.abandon d else s.advanceAll d
    let n := Tab.get natReset s.flt.suppressed d
    let ws := s.recordOf e s.flt.seq n
    (((s.record e n).setSupp d 0).logFault 2 ws).sendMsix (s.rf rFaultVec 7 0)

/-! ### Fatal faults -/

/-- Steps 1 and 2 of R423: everything that runs stops, its outputs discarded, answer blocks in flight among them, and the seal group of every open step hears of it. -/
def State.stopService (s : State) : State :=
  let s := { s with flt := { s.flt with fatal := true } }
  let s := s.runs.foldl (fun s r => (s.discard r).dropHeld r.cmd.id) s
  let s := s.setRuns []
  let s := { s with upd := { s.upd with grate := [] } }
  let s := { s with fab := { s.fab with colls := [] } }
  (List.range 256).foldl (fun s d =>
    match (s.dom d).step with
    | some st => if s.stepOpenB d then s.sendPoison d st.number 4 else s
    | none => s) s

/-- A Fatal fault (R423): the module stops service until reset. A later one stops nothing more; it is signalled and recorded as the
first (R425, R428). `supp` counts the other events of its cycle (R419). -/
def State.fatal (s0 : State) (e0 : Ev) (supp : Nat := 0) : State :=
  let e := { e0 with cls := 3 }
  let s := if s0.flt.fatal then s0 else s0.stopService
  let s := { s.smokePulse with flt := { s.smokePulse.flt with ember := false } }
  let s := s.setRf rEmberStatus 1 0 2
  let ws := s.recordOf e s.flt.seq supp
  let s := s.form e ws
  let s := if s.pwr.pcieUp then (s.toRing 3 ws).sendMsix (s.rf rFaultVec 7 0) else s
  s.logFault 3 ws

end Sys2Proof.Machine
end

