-- ==== Sys2Proof/Machine/Move.lean ====
section
/-!
DEFINITION. TRANSFER, CONVERT and VCLEAR (R86-R89, R93, R227, R413): their checks and what one execution writes.
-/
namespace Sys2Proof.Machine

def Desc.padded (d : Desc) : Bool := !(d.padLo0 == 0 && d.padHi0 == 0 && d.padLo1 == 0 && d.padHi1 == 0)
def Desc.sameStored (a b : Desc) : Bool := a.sz 0 == b.sz 0 && a.sz 1 == b.sz 1 && a.sz 2 == b.sz 2 && a.sz 3 == b.sz 3

/-- Does a transfer copy (R89)? -/
def copies (s d : Desc) : Bool :=
  s.ety == d.ety &&
  ((!s.bscaled && !d.bscaled) ||
   (s.bscaled && d.bscaled && s.bshape == d.bshape && s.sameStored d && s.trans == d.trans && !s.padded && !d.padded))

/-- The step number for the noise function: of the domain's open step, or 0 (R78). -/
def State.stepNo (s : State) (d : Nat) : Nat :=
  match (s.dom d).step with
  | some st => if s.stepOpenB d then st.number else 0
  | none => 0

/-! ### Checks -/

/-- Checks of TRANSFER (R187, R188, R413). -/
def transferChecks (c : Cmd) (ds : List (Option Desc)) : Checks :=
  let s := dAt ds 0
  let d := dAt ds 1
  { roles := [{ tys := anyType, spaces := [0, 1, 2] }, { tys := anyType, spaces := [0, 1, 3] }]
    types := orCause ((d.ty != .zm32 || s.ty == .zm32) && (d.space != 3 || d.ty == .za32 || d.ty == .zf16)) 3
    sizes := orCause (s.sameSizes d) 2
    own := [orCause (zeroIn (c.op 0) 63 32) 1,
      orCause ((s.ety == d.ety || convPair s.ty d.ty) && !(d.ty == .int4 && !copies s d && !d.expMode)) 3]
    atOnce := d.empty }

/-- Checks of CONVERT (R87, R397). -/
def convertChecks (c : Cmd) (ds : List (Option Desc)) : Checks :=
  let s := dAt ds 0
  let d := dAt ds 1
  { roles := [{ tys := anyType, spaces := [0, 1, 2] }, { tys := anyType }]
    sizes := orCause (s.sameSizes d) 2
    own := [orCause (zeroIn (c.op 0) 63 32 && zeroIn (c.op 1) 7 2 && zeroIn (c.op 1) 63 16) 1,
      orCause (convPair s.ty d.ty && (!fbit (c.op 1) 0 || d.ty == .zg8 || d.ty == .zg16) && !(d.ty == .int4 && !d.expMode)) 3]
    atOnce := d.empty }

/-- Checks of VCLEAR (R227). -/
def vclearChecks (c : Cmd) (ds : List (Option Desc)) : Checks :=
  let d := dAt ds 0
  { roles := [{ tys := anyType }]
    own := [orCause (zeroIn (c.op 0) 63 16) 1,
      orCause (d.space == 0 && d.layout == 0 && d.base % 256 == 0) 4,
      orCause (d.ty == .byte && d.rank == 1 && d.s0 == 1 && !d.padded && d.n0 % 256 == 0) 2]
    atOnce := d.n0 == 0 }

/-! ### Copies -/

/-- Copy the elements of a list of linear indices (R89): patterns, poison with them. -/
def X.copyEls (x : X) (s d : Desc) : List Nat → X
  | [] => x
  | l :: ls =>
    let r := x.pat s 1 l
    X.copyEls (r.1.put d l r.2.1 r.2.2) s d ls

/-- Copy the scale bytes of `n` blocks from block `b` (R89). -/
def X.copyScales (x : X) (s d : Desc) (b : Nat) : Nat → X
  | 0 => x
  | n + 1 =>
    let ps := s.auxPlace x.tile
    let r := x.read ps.1 1 (ps.2 + (b : Nat)) 1
    X.copyScales (r.1.putScale d b (signed 8 r.2.1) r.2.2) s d (b + 1) n

/-! ### Conversions -/

/-- Blocks in course: the scale, and the elements that are still to be written. -/
def scaleReset (_ : Nat) : Option (Int × Nat) := none

/-- The exact values of the elements of a destination block, in its order, without those that are poisoned (log entry 118): `f` gives the
value at a linear index (a source element of CONVERT, a result of FUNC). Flags are raised where the element is written. -/
def X.blockVals (x : X) (f : X → Nat → X × Ex × Bool) (d : Desc) : List Nat → X × List Ex
  | [] => (x, [])
  | g :: gs =>
    let r := f x (d.lamOf (d.unsigma g))
    let q := X.blockVals { r.1 with flags := x.flags } f d gs
    (q.1, if r.2.2 then q.2 else r.2.1 :: q.2)

/-- The scale of the block that holds stored index `i`: computed at the block's first element (R74), or fixed. Where the
source overlaps the destination, the scale is of the sources as they stand before the block's first write, and each element is then read
again (R86; log entry 81). -/
def X.blockScaleOf (x : X) (f : X → Nat → X × Ex × Bool) (d : Desc) (fixed : Option Int) (i : Ix) (sc : Tab (Option (Int × Nat))) :
    X × Int × Tab (Option (Int × Nat)) :=
  if !d.bscaled then (x, 0, sc)
  else
    let b := d.sigma i / 32
    match Tab.get scaleReset sc b with
    | some v => (x, v.1, Tab.set scaleReset sc b (some (v.1, v.2 - 1)))
    | none =>
      match fixed with
      | some v => (x, v, Tab.set scaleReset sc b (some (v, 31)))
      | none =>
        let r := x.blockVals f d (rangeFrom (32 * b) 32)
        let v := blockScale d.ty r.2
        (r.1, v, Tab.set scaleReset sc b (some (v, 31)))

/-- The scale byte of a block is written with the last of its elements: CONVERT reads its source at every index of the block before
it writes there (R86; log entry 81). -/
def X.endBlock (x : X) (d : Desc) (i : Ix) (sc : Tab (Option (Int × Nat))) : X :=
  if !d.bscaled then x
  else match Tab.get scaleReset sc (d.sigma i / 32) with
    | some (v, 0) => x.putScale d (d.sigma i / 32) v false
    | _ => x

/-- Round one exact value into an element of `d` (R76-R79, Table NF-10, R93). -/
def X.rounded (x : X) (d : Desc) (i : Ix) (l step : Nat) (round : Bool) (sc : Int) (v : Ex) : X × Nat × Flags × Bool :=
  if d.ty.isInt then
    let p := x.param d i 0
    let q := quantTo d.ty (p.2.1 % 65536) (signed 8 (p.2.1 / 65536)) v
    (p.1, unsigned (if d.ty = .int4 then 4 else 8) q.1, q.2, p.2.2)
  else
    let q := convTo d.ty d.ovfNan (if round then some (noise step d.tensor l) else none) (v.scale (-sc))
    (x, q.1, q.2, false)

/-- Convert the values of a list of linear indices into `d` in turn (R86, R262). -/
def X.convEls (f : X → Nat → X × Ex × Bool) (d : Desc) (round : Bool) (fixed : Option Int) (step : Nat) :
    List Nat → Tab (Option (Int × Nat)) → X → X
  | [], _, x => x
  | l :: ls, sc, x =>
    match d.at l with
    | none => X.convEls f d round fixed step ls sc { x with offered := x.offered + 1, dropped := x.dropped + 1 }
    | some i =>
      let b := x.blockScaleOf f d fixed i sc
      let r := f b.1 l
      if r.2.2 then
        X.convEls f d round fixed step ls b.2.2 (({ r.1 with flags := b.1.flags }.put d l 0 true).endBlock d i b.2.2)
      else
        let q := r.1.rounded d i l step round b.2.1 r.2.1
        let x := if q.2.2.2 then { q.1 with flags := b.1.flags } else q.1.orF q.2.2.1
        X.convEls f d round fixed step ls b.2.2 ((x.put d l q.2.1 q.2.2.2).endBlock d i b.2.2)

/-! ### The three executions -/

/-- A place in an answer-queue slot (R169): the descriptor of the rows in the combining tile's store. An answer block has no scale area:
its rows are plain values (log entry 115). -/
def State.answerDesc (s : State) (d : Desc) (slot : Nat) : Desc :=
  let c := rAqCfg (d.base % 64)
  let off := s.aqBase (d.base % 64) + slot * s.aqBytes (d.base % 64) + 32
  { d with space := 1, base := s.rf c 0 0 * 2 ^ 29 + s.rf c 6 1 * 2 ^ 23 + off, aux := 0, bscaled := false, s0 := 1, s1 := d.n0 }

/-- Linear indices whose element lies within a slot. -/
def State.answerLs (s : State) (d : Desc) : List Nat :=
  let bytes := s.aqBytes (d.base % 64) - 32
  (List.range d.count).filter (fun l => decide ((l + 1) * d.esz ≤ bytes))

/-- Write the header read at admission to the slot (R169): `snap` holds context, slot, poison, 32 bytes, and the words of it that were
poisoned, which the command has read (R251). -/
def X.answerHeader (x : X) (d : Desc) : X :=
  let bytes := (x.run.snap.drop 3).take 32
  let p := x.run.snap.getD 2 0 == 1
  let at' := tileOf x.tile d.base
  let x := (x.run.snap.drop 35).foldl (fun (x : X) k =>
    { x.addPw (2 ^ 44 + k) with pAt := if x.pAt.isNone then some (wordAddr k, 3, 1) else x.pAt }) x
  (bytes.zipIdx).foldl (fun x b =>
    let a : Int := (at'.2 : Int) - 32 + (b.2 : Nat)
    let h := x.strikeByte b.2 1 a b.1
    h.1.putByte (.tile at'.1) a (BitVec.ofNat 8 h.2) p) x

/-- One execution of TRANSFER (R89, R413). -/
def X.transfer (x : X) : X :=
  let s := dAt x.run.descs 0
  let d0 := dAt x.run.descs 1
  let d := if d0.space = 3 then x.s.answerDesc d0 (x.run.snap.getD 1 0) else d0
  let ls := if d0.space = 3 then x.s.answerLs d0 else List.range d.count
  let x := if d0.space = 3 then x.answerHeader d else x
  let x :=
    if copies s d then
      let x := x.copyEls s d ls
      if d.bscaled then x.copyScales s d 0 (ceilDiv d.stCount 32) else x
    else X.convEls (fun x l => x.exact s 1 l) d false none 0 ls [] { x with conv := true }
  { x with result := BitVec.ofNat 64 (x.done % 2 ^ 48) }

/-- One execution of CONVERT (R86). -/
def X.convert (x : X) : X :=
  let w := x.run.cmd.op 1
  let s := dAt x.run.descs 0
  let d := dAt x.run.descs 1
  X.convEls (fun x l => x.exact s 1 l) d (fbit w 0) (if fbit w 1 then some (signed 8 (fld w 15 8)) else none) x.run.stepNo
    (List.range d.count) [] { x with conv := true }

/-- The blocks of a byte range through the snapshot, up to the first address that may not be written. -/
def X.clearRange (x : X) (hi : Nat) : Nat → Nat → X
  | 0, _ => x
  | fuel + 1, va =>
    if hi ≤ va then x
    else match pageOf x.run.pages va with
      | none => x.xlate va 2 false
      | some p =>
        if !p.present then x.xlate va 2 false
        else if !p.write then x.xlate va 2 true
        else
          let e := min hi (p.va + p.size)
          X.clearRange { x with clears := x.clears ++ [((p.addr + (va - p.va)) / 256, (e - va) / 256)] } hi fuel e

/-- One execution of VCLEAR (R227). -/
def X.vclear (x : X) : X :=
  let d := dAt x.run.descs 0
  let x := x.clearRange (d.base + d.n0) 1030 d.base
  { x with offered := d.n0, done := d.n0 }

end Sys2Proof.Machine
end

