-- ==== Sys2Proof/Machine/Hearth.lean ====
section
/-!
DEFINITION. HMUL (04_hearth_arrays): its checks, the order of its sums, masks, decode batches, the zero bitmap, the checksum
checks, the counts of its result word.
-/
namespace Sys2Proof.Machine

/-! ### Sums (R102) -/

/-- Sum of a list of ZA32 values in pairs, one tree level (Table HE-5). -/
def pairLevel : List (W32 × Flags) → List (W32 × Flags)
  | a :: b :: t => let r := addZ a.1 b.1; (r.1, (a.2.or b.2).or r.2) :: pairLevel t
  | l => l

/-- The pairwise tree of up to `2^n` leaves. -/
def pairTree : Nat → List (W32 × Flags) → W32 × Flags
  | 0, l => l.headD (0#32, {})
  | n + 1, l => pairTree n (pairLevel l)

/-- The group sum of 32 leaves (Table HE-5): missing leaves are +0. -/
def groupSum (ls : List (W32 × Flags)) : W32 × Flags := pairTree 5 (ls ++ List.replicate (32 - ls.length) ((0#32, {}) : W32 × Flags))

/-- Fold the group sums into a start value in ascending order (R102). -/
def foldSums (v : W32) (gs : List (W32 × Flags)) : W32 × Flags :=
  gs.foldl (fun a g => let r := addZ a.1 g.1; (r.1, (a.2.or g.2).or r.2)) (v, {})

/-- The `q` group sums of a list of products. -/
def groupSums : Nat → List (W32 × Flags) → List (W32 × Flags)
  | 0, _ => []
  | q + 1, ls => groupSum (ls.take 32) :: groupSums q (ls.drop 32)

/-! ### Masks (R112-R116) -/

/-- Does W's reduction dimension run at twice the rate (Table HE-9, R112)? -/
def rate2Of (kind : Nat) (w : Desc) : Bool :=
  let padOk := if w.trans then w.padLo0 % 4 == 0 && w.padHi0 % 4 == 0 else w.padLo1 % 4 == 0 && w.padHi1 % 4 == 0
  padOk && (kind == 1 || (kind == 2 && w.trans) || (kind == 3 && !w.trans))

/-- Word 1 of HMUL: `MASK_KIND`, `MASK_USE`, `DECODE`. -/
def Cmd.maskKind (c : Cmd) : Nat := fld (c.op 1) 2 1
def Cmd.maskUse (c : Cmd) : Bool := fbit (c.op 1) 3
def Cmd.decode (c : Cmd) : Bool := fbit (c.op 1) 4
/-- `RATE_2X` (R113). -/
def Cmd.rate2 (c : Cmd) (ds : List (Option Desc)) : Bool := c.maskKind != 0 && !c.maskUse && rate2Of c.maskKind (dAt ds 0)

/-- Read all bits of a mask, by rows. -/
def X.maskBits (x : X) (d : Desc) : List Nat → X × List Bool × Bool
  | [] => (x, [], false)
  | g :: gs =>
    let r := x.raw d 1 ⟨g % d.n0, g / d.n0, 0, 0⟩
    let q := X.maskBits r.1 d gs
    (q.1, (r.2.1 == 1) :: q.2.1, r.2.2 || q.2.2)

/-- The structure a mask declares (R115, Table HE-9): `bit c r` of a mask of C columns and R rows. -/
def maskOk (C R kind : Nat) (bits : List Bool) : Bool :=
  let b (c r : Nat) : Nat := if c < C ∧ r < R then b2n (bits.getD (c + C * r) false) else 0
  let rowOk (c0 r : Nat) := b c0 r + b (c0 + 1) r + b (c0 + 2) r + b (c0 + 3) r == 2
  let colOk (c r0 : Nat) := b c r0 + b c (r0 + 1) + b c (r0 + 2) + b c (r0 + 3) == 2
  let rows := if kind = 1 then roundUp R 4 else R
  let cols := if kind = 1 then roundUp C 4 else C
  (kind == 3 || (List.range rows).all (fun r => (List.range (ceilDiv C 4)).all (fun i => rowOk (4 * i) r))) &&
  (kind == 2 || (List.range cols).all (fun c => (List.range (ceilDiv R 4)).all (fun i => colOk c (4 * i))))

/-- Is an element of the masked operand kept? An element in padding has no mask bit and counts as masked off (R112). -/
def keptBit (bits : List Bool) (C : Nat) (d : Desc) (j0 j1 : Nat) : Bool :=
  match d.stored j0 j1 0 0 with
  | some i => bits.getD (i.i0 + C * i.i1) false
  | none => false

/-! ### Checks (R97, R98, R112, R116) -/

/-- Is an operand 16 bits wide after expansion (R95)? -/
def Desc.wide (d : Desc) : Bool := d.ty == .zf16 || d.ty == .zg16 || d.ty == .zm32 || (d.ty.isInt && d.expTgt)

/-- Checks of HMUL (R97, R98, R112, R116, R117). A decode ring shorter than M is rejected with SHAPE (log entry 100). -/
def hmulChecks (c : Cmd) (ds : List (Option Desc)) : Checks :=
  let w := dAt ds 0
  let x := dAt ds 1
  let y := dAt ds 2
  let mk := dAt ds 3
  let zm := dAt ds 4
  let K := w.N1
  let N := w.N0
  let M := y.N1
  let kind := c.maskKind
  let vt : List ETy := [.zf8, .zg8, .zf16, .zg16, .zm32]
  let rsvd := zeroIn (c.op 1) 15 5 && zeroIn (c.op 1) 63 32 && zeroIn (c.op 2) 31 17 && zeroIn (c.op 2) 63 49 &&
    (c.decode || (zeroIn (c.op 2) 16 0 && zeroIn (c.op 2) 48 32))
  let outer (d : Desc) := d.N2 == 1 && d.N3 == 1
  let shape := outer w && outer x && outer y && decide (K ≤ if c.rate2 ds then 256 else 128) &&
    decide (N ≤ if w.wide || x.wide then 128 else 256) && decide (M ≤ if c.decode then 256 else 4096)
  let ref := if c.maskUse then y else w
  let mask := if kind = 0 then !dHas ds 3
    else mk.n0 == ref.sz 0 && mk.n1 == ref.sz 1 && K % 4 == 0 && N % 4 == 0
  { roles := [{ tys := .int4 :: .int8 :: vt, spaces := [1], hearth := true }, { tys := vt, spaces := [0, 1, 2], hearth := true },
      { tys := [.za32], spaces := [1], hearth := true }, { tys := [.bitmap], spaces := [1], record := true },
      { tys := [.bitmap], spaces := [1], record := true }]
    sizes := orCause (x.N0 == K && y.N0 == N && (if c.decode then decide (M ≤ x.N1) else x.N1 == M) &&
      (!dHas ds 4 || (zm.n0 == N && zm.n1 == M))) 2
    own := [orCause rsvd 1, orCause shape 2, orCause mask 5]
    atOnce := M == 0 || N == 0 || (K == 0 && c.acc) }

/-! ### Feeder and drain (R107-R110) -/

/-- The array while rows stream: wall cycle, advance index, rows entered (their advance index, newest first), slots of the
fill still to enter, elastic buffers, consecutive idle cycles, ramp cycles left, counts. -/
structure Feed where
  t : Nat
  a : Nat
  ent : List Nat := []
  fill : Nat
  buf : List Nat := [0, 0, 0, 0, 0, 0, 0, 0]
  idle : Nat := 0
  ramp : Nat := 0
  bubbles : Nat := 0
  stalls : Nat := 0
  reRamps : Nat := 0
deriving DecidableEq, Repr

/-- One cycle of the array (R108-R110). -/
def Feed.cycle (q : Nat) (kindling : Bool) (n : Nat) (arrive : List Nat) (held : List (Nat × Nat)) (f : Feed) : Feed :=
  let free (g : Nat) := !held.contains (g, f.t)
  let b1 := (f.buf.zipIdx).map (fun p => if free p.2 then p.1 - 1 else p.1)
  let due (g : Nat) := f.ent.contains (f.a - (g + 7 + q)) && decide (g + 7 + q ≤ f.a)
  if (List.range 8).any (fun g => due g && b1.getD g 0 == 8) then { f with t := f.t + 1, buf := b1, stalls := f.stalls + 1 }
  else
    let b2 := ((f.buf.zip b1).zipIdx).map (fun p =>
      if due p.2 then (if free p.2 && p.1.1 == 0 then p.1.2 else p.1.2 + 1) else p.1.2)
    let busy := (match f.ent with | e :: _ => decide (f.a ≤ e + 15 + q) | [] => false) || b2.any (· != 0)
    let f : Feed := { f with t := f.t + 1, a := f.a + 1, buf := b2 }
    let k := f.ent.length
    let ready := decide (k < n) && decide (arrive.getD k 0 < f.t - 1)
    if 0 < f.ramp then { f with ramp := f.ramp - 1 }
    else if ready then
      if kindling && decide (64 ≤ f.idle) then { f with ramp := 31, idle := 0, reRamps := f.reRamps + 1 }
      else { f with ent := (f.a - 1) :: f.ent, idle := 0 }
    else if k < n then { f with bubbles := f.bubbles + 1, idle := if busy then 0 else f.idle + 1 }
    else if 0 < f.fill then { f with fill := f.fill - 1, bubbles := f.bubbles + 1 }
    else f

/-- Run the array for a number of cycles. -/
def Feed.go (q : Nat) (kindling : Bool) (n : Nat) (arrive : List Nat) (held : List (Nat × Nat)) : Nat → Feed → Feed
  | 0, f => f
  | k + 1, f => Feed.go q kindling n arrive held k (f.cycle q kindling n arrive held)

/-- Bubbles, stalls and ramps of an HMUL of `n` valid rows in `S` slots whose first slot can enter in cycle `s0`. -/
def feedCounts (q : Nat) (kindling : Bool) (n S s0 : Nat) (arrive : List Nat) (held : List (Nat × Nat)) : Nat × Nat × Nat :=
  if held.isEmpty && ((arrive.take n).zipIdx).all (fun p => decide (p.1 < s0 + p.2)) then (S - n, 0, 0)
  else
    let last := (arrive.take n).foldl max 0
    let f := Feed.go q kindling n arrive held (last + 33 * n + S + 8 * held.length + 64) { t := s0, a := s0, fill := S - n }
    (f.bubbles, f.stalls, f.reRamps)

/-! ### One execution -/

/-- What the rows of an execution leave for its checks: of row m, the sums of column n before the fold, start value and value
written; newest first. -/
structure HCell where
  m : Nat
  n : Nat
  gs : List W32
  old : W32
  v : W32
  /-- Written +0 under R116, or poisoned: left out of the row check (R122). -/
  skip : Bool := false
deriving DecidableEq, Repr

/-- Read W as loaded: K rows of N values, masked-off weights at +0 (R113, R114), with the flags of the kept weights' expansion. -/
def X.loadW (x : X) (w : Desc) (keep : Nat → Nat → Bool) (K N : Nat) : X × List (List Ex) × Bool × Flags :=
  (List.range K).foldl (fun a k =>
    let r := (List.range N).foldl (fun (b : X × List Ex × Bool × Flags) n =>
      let v := ({ b.1 with flags := {} } : X).val w 1 (n + N * k)
      ({ v.1 with flags := x.flags }, (if keep k n then v.2.1 else Ex.zero) :: b.2.1, b.2.2.1 || v.2.2,
        if keep k n then b.2.2.2.or v.1.flags else b.2.2.2)) (a.1, [], a.2.2.1, a.2.2.2)
    (r.1, a.2.1 ++ [r.2.1.reverse], r.2.2))
    (x, [], false, {})

/-- One output of one row (R102, R114, R116): written through Y, and its zero-bitmap bit. -/
def X.hmulOut (x : X) (y : Desc) (zm : Option Desc) (acc : Bool) (q m n : Nat) (row : List Ex) (col : List Ex)
    (bad masked : Bool) (fs : List CFault) : X × Option HCell :=
  let l := n + y.N0 * m
  let old := if acc && !masked then (match y.at l with | some i => x.raw y 1 i | none => (x, 0, false)) else (x, 0, false)
  let x := old.1
  let out (x : X) (v z : Nat) (p : Bool) : X :=
    match zm with | some d => (x.put y l v p).put d (n + d.n0 * m) z p | none => x.put y l v p
  if bad then (out x 0 0 true, none)
  else
    let gs := groupSums q (List.zipWith mulEx row col)
    let gs := match gs with | g :: t => (g.1 ^^^ faultPat fs 0 m n, g.2) :: t | [] => []
    let skip : HCell := ⟨m, n, gs.map (·.1), 0#32, 0#32, true⟩
    if masked then (out x 0 0 false, some skip)
    else if old.2.2 then (out x 0 0 true, some skip)
    else
      let v := foldSums (BitVec.ofNat 32 old.2.1) gs
      let w := v.1 ^^^ faultPat fs 1 m n
      (out (x.orF v.2) w.toNat (if w = 0#32 then 0 else 1) false, some { skip with old := BitVec.ofNat 32 old.2.1, v := w, skip := false })

/-- The rows of an execution, `(m, ring slot)` in turn. -/
def X.hmulRows (xd y : Desc) (zm : Option Desc) (acc : Bool) (q K N : Nat) (cols : List (List Ex)) (bad : Bool)
    (keepY : Nat → Nat → Bool) (fs : List CFault) : List (Nat × Nat) → X → X × List HCell × List (Nat × List Ex)
  | [], x => (x, [], [])
  | (m, slot) :: ms, x =>
    let r := x.vals xd 1 ((List.range K).map (fun k => k + K * slot))
    let rb := bad || r.2.any (·.2)
    let row := r.2.map (·.1)
    let o := (List.range N).foldl (fun (a : X × List HCell) n =>
      let o := a.1.hmulOut y zm acc q m n row (cols.getD n []) rb (!keepY m n) fs
      (o.1, match o.2 with | some c => a.2 ++ [c] | none => a.2)) (r.1, [])
    let rest := X.hmulRows xd y zm acc q K N cols bad keepY fs ms o.1
    (rest.1, o.2 ++ rest.2.1, if rb then rest.2.2 else (m, row) :: rest.2.2)

/-- The magnitude sum A of a moving row (R121). -/
def colMag (rows : List (List Ex)) (row : List Ex) : Ex :=
  chkSum (List.zipWith (fun x r => chkMul x.abs (chkSum (r.map Ex.abs))) row rows)

/-- The column check of row m (R121, R123): C over every n against S. -/
def colCheck (rows : List (List Ex)) (row : List Ex) (cells : List HCell) : Bool :=
  chkDiffers (chkSum (cells.flatMap (fun h => h.gs.map W32.ex)))
    (chkSum (List.zipWith (fun x r => chkMul x (chkSum r)) row rows)) (colMag rows row)

/-- The magnitude sum B of output n (R122). -/
def rowMag (cells : List HCell) : Ex :=
  chkSum (cells.flatMap (fun h => (W32.ex h.old).abs :: h.gs.map (fun g => (W32.ex g).abs)))

/-- The row check of output n (R122, R123): the cells do not hold those written as +0 under R116. -/
def rowCheck (cells : List HCell) : Bool :=
  chkDiffers (chkSum (cells.flatMap (fun h => [W32.ex h.v, (W32.ex h.old).neg])))
    (chkSum (cells.flatMap (fun h => h.gs.map W32.ex))) (rowMag cells)

/-- The cells of output n that the row check sums (R122). -/
def colCells (cells : List HCell) (n : Nat) : List HCell := cells.filter (fun h => h.n == n && !h.skip)

/-- Rows and columns whose magnitude sum is +inf (R365): they count as unchecked. -/
def unchecked (N : Nat) (rows : List (List Ex)) (moved : List (Nat × List Ex)) (cells : List HCell) : Nat :=
  ((List.range N).filter (fun n =>
    (colCells cells n).any (fun h => (W32.ex h.old).isInf || h.gs.any (fun g => (W32.ex g).isInf)) && (rowMag (colCells cells n)).isInf)).length
  + (moved.filter (fun p =>
      (p.2.any Ex.isInf || rows.any (fun r => r.any Ex.isInf)) && (colMag rows p.2).isInf)).length

/-- One execution of HMUL with given arithmetic faults. `snap` holds `RAMPED`, and for a decode HMUL the rows taken, the
first ring index and whether the ring was overrun (R119, R120). -/
def X.hmulWith (x : X) (fs : List CFault) : X × List HCell × List (Nat × List Ex) × List (List Ex) :=
  let c := x.run.cmd
  let ds := x.run.descs
  let w := dAt ds 0
  let xd := dAt ds 1
  let y := dAt ds 2
  let mk := dAt ds 3
  let zm := ds.getD 4 none
  let K := w.N1
  let N := w.N0
  let M := y.N1
  let sn := x.run.snap
  let two := c.rate2 ds
  let q := if two then 8 else 4
  let n := if c.decode then sn.getD 1 0 else M
  let slots := (List.range n).map (fun j => (j, if c.decode then (sn.getD 2 0 + j) % xd.N1 else j))
  if c.decode && sn.getD 3 0 == 1 then (x.fail { cause := 0, src := 22 }, [], [], [])
  else
    let mb := if c.maskKind = 0 then (x, [], false) else x.maskBits mk (List.range (mk.n0 * mk.n1))
    let x := mb.1
    if c.maskKind != 0 && !mb.2.2 && !maskOk mk.n0 mk.n1 c.maskKind mb.2.1 then (x.fail { cause := 5, src := 0 }, [], [], [])
    else
      let onW := c.maskKind != 0 && !c.maskUse
      let onY := c.maskKind != 0 && c.maskUse
      let lw := x.loadW w (fun k n => !onW || keptBit mb.2.1 mk.n0 w n k) K N
      let cols := (List.range N).map (fun n => lw.2.1.map (fun r => r.getD n Ex.zero))
      let r := X.hmulRows xd y zm c.acc q K N cols (lw.2.2.1 || mb.2.2)
        (fun m n => !onY || keptBit mb.2.1 mk.n0 y n m) fs slots lw.1
      let S := max M 16
      let kind := !x.s.frame.legacy
      let s0 := 8 + (if two then 128 else 64) + (if sn.getD 0 0 == 1 then 32 else 0) + 1 + x.e.extra
      let f := feedCounts q kind n S s0 x.e.arrive x.e.held
      ({ r.1 with flags := if r.2.2.isEmpty then r.1.flags else r.1.flags.or lw.2.2.2, result := BitVec.ofNat 64 (n + sn.getD 0 0 * 2 ^ 13 + b2n two * 2 ^ 14 + min f.1 65535 * 2 ^ 16
            + min f.2.1 65535 * 2 ^ 32 + min f.2.2 255 * 2 ^ 48) }, r.2.1, r.2.2, lw.2.1)

/-- One execution of HMUL and its checks (R121-R123, R365). -/
def X.hmul (x : X) : X :=
  let fs := x.e.faults
  let r := x.hmulWith fs
  let N := (dAt x.run.descs 0).N0
  if r.1.stop.isSome then r.1
  else
    let y := { r.1 with s := r.1.s.bump cSeUnchecked (unchecked N r.2.2.2 r.2.2.1 r.2.1) }
    let d1 := r.2.2.1.any (fun p => colCheck r.2.2.2 p.2 (r.2.1.filter (fun h => h.m == p.1)))
    let d2 := (List.range N).any (fun n => rowCheck (colCells r.2.1 n))
    { y with det := y.det || d1 || d2 }.residue

end Sys2Proof.Machine
end

