-- ==== Sys2Proof/Machine/Skipper.lean ====
section
/-!
DEFINITION. Skipper engines (05_skipper_engines): SMUL over matched pairs with continuations, the compressed tile form,
GATHER, SCATTER, MERGE and COMPACT.
-/
namespace Sys2Proof.Machine

/-! ### Compressed tiles (R143-R146) -/

def pad64 (x : Nat) : Nat := roundUp x 64

/-- A tile header, decoded (Table SK-7). -/
structure TileHdr where
  form : Bool
  ety : Nat
  scaled : Bool
  rows : Nat
  cols : Nat
  nnz : Nat
deriving DecidableEq, Repr

def TileHdr.ofNat (h : Nat) : TileHdr :=
  { form := bit h 0, ety := bits h 3 1, scaled := bit h 4, rows := bits h 31 16, cols := bits h 47 32, nnz := bits h 95 64 }

def TileHdr.ty (t : TileHdr) : ETy := (tileEty t.ety).getD .za32
/-- `Bm`, `A`, `Vc`, `Vd` (R143). -/
def TileHdr.bm (t : TileHdr) : Nat := pad64 (8 * t.rows * ceilDiv t.cols 64)
def TileHdr.area (t : TileHdr) : Nat := if t.scaled then pad64 (t.rows * t.cols / 32) else 0
def TileHdr.vc (t : TileHdr) : Nat := pad64 (t.nnz * t.ty.size)
def TileHdr.vd (t : TileHdr) : Nat := pad64 (t.rows * t.cols * t.ty.size)
def TileHdr.bitmapOff (t : TileHdr) : Nat := if t.form then 64 else 0
def TileHdr.scaleOff (t : TileHdr) : Nat := if t.form then 64 + t.bm else 64
def TileHdr.valueOff (t : TileHdr) : Nat := t.scaleOff + t.area
def TileHdr.bytes (t : TileHdr) : Nat := t.valueOff + (if t.form then t.vc else t.vd)

/-- The 64 bytes of a header (Table SK-7). -/
def TileHdr.toBytes (t : TileHdr) : List Byte :=
  let w := b2n t.form + t.ety * 2 + b2n t.scaled * 2 ^ 4 + t.rows * 2 ^ 16 + t.cols * 2 ^ 32 + t.nnz * 2 ^ 64 + t.bytes * 2 ^ 96
    + t.bitmapOff * 2 ^ 128 + t.scaleOff * 2 ^ 160 + t.valueOff * 2 ^ 192
  let b := leBytes 60 w
  b ++ leBytes 4 (crc32c b)

/-- The header check of R146, for a region of `n` bytes. -/
def tileHdrOk (h n : Nat) : Bool :=
  let t := TileHdr.ofNat h
  bits h 511 480 == crc32c (leBytes 60 h) && bits h 15 5 == 0 && bits h 63 48 == 0 && bits h 479 224 == 0 &&
  (tileEty t.ety).isSome && !(t.scaled && t.ety == 4) && (!t.scaled || t.rows * t.cols % 32 == 0) &&
  decide (1 ≤ t.rows ∧ t.rows ≤ 4096) && decide (1 ≤ t.cols ∧ t.cols ≤ 32768) &&
  bits h 127 96 == t.bytes && bits h 159 128 == t.bitmapOff && bits h 191 160 == t.scaleOff &&
  bits h 223 192 == t.valueOff && decide (t.bytes ≤ n)

/-- The bitmap bits of a tile, by rows (R124). -/
def X.tileBits (x : X) (d : Desc) (t : TileHdr) : X × List Bool × Bool :=
  (List.range t.rows).foldl (fun a r =>
    let q := a.1.region d (64 + 8 * r * ceilDiv t.cols 64) (8 * ceilDiv t.cols 64)
    (q.1, a.2.1 ++ (List.range t.cols).map (fun c => bit q.2.1 c), a.2.2 || q.2.2)) (x, [], false)

/-- Element `i` (row-major) of a tile with bitmap `bs`: pattern and poison; a bit of 0 gives the all-zero pattern. -/
def X.tileEl (x : X) (d : Desc) (t : TileHdr) (bs : List Bool) (i : Nat) : X × Nat × Bool :=
  if t.form then
    if bs.getD i false then x.region d (t.valueOff + ((bs.take i).filter id).length * t.ty.size) t.ty.size else (x, 0, false)
  else x.region d (t.valueOff + i * t.ty.size) t.ty.size

/-- The scale byte of block `b` of a tile, its blocks of 32 elements counted in row-major order (R143; log entry 103). -/
def X.tileScale (x : X) (d : Desc) (t : TileHdr) (b : Nat) : X × Int × Bool :=
  if t.scaled then let r := x.region d (t.scaleOff + b) 1; (r.1, signed 8 r.2.1, r.2.2) else (x, 0, false)

/-! ### SMUL -/

def Cmd.xForm (c : Cmd) : Bool := fbit (c.op 1) 1

/-- Checks of SMUL (R127, R128, R130, R138). With a compressed X, M and K come from Y and W; the header is checked with the
data (`X.smulHeader`). -/
def smulChecks (c : Cmd) (ds : List (Option Desc)) : Checks :=
  let w := dAt ds 0
  let x := dAt ds 1
  let y := dAt ds 2
  let mk := dAt ds 3
  let xm := dAt ds 4
  let om := dAt ds 5
  let zm := dAt ds 6
  let K := w.N1
  let N := w.N0
  let M := y.N1
  let vt : List ETy := [.zf8, .zg8, .zf16, .zg16, .zm32]
  let outer (d : Desc) := d.N2 == 1 && d.N3 == 1
  let bm : Role := { tys := [.bitmap], spaces := [1], record := true }
  let rsvd := zeroIn (c.op 1) 15 2 && zeroIn (c.op 2) 63 32 && !(c.xForm && dHas ds 4)
  let shape := outer w && outer y && (c.xForm || outer x) && decide (M ≤ 4096) && decide (N ≤ 4096) && decide (K ≤ 32768) &&
    decide (M * N ≤ 262144)
  let place := !c.xForm || x.base % 64 == 0
  let mask := (!dHas ds 3 || (mk.n0 == w.sz 0 && mk.n1 == w.sz 1)) && (!dHas ds 4 || (xm.n0 == K && xm.n1 == M)) &&
    (!dHas ds 5 || (om.n0 == N && om.n1 == M)) && (!dHas ds 6 || (zm.n0 == N && zm.n1 == M))
  { roles := [{ tys := .int4 :: .int8 :: vt, spaces := [1] }, { tys := if c.xForm then [.byte] else vt, record := c.xForm },
      { tys := [.za32], spaces := [1] }, bm, bm, bm, bm]
    sizes := orCause (y.N0 == N && (c.xForm || (x.N0 == K && x.N1 == M))) 2
    own := [orCause rsvd 1, orCause shape 2, orCause place 4, orCause mask 5,
      orCause (decide (ceilDiv K 64 * (2 + 4 * N) + ceilDiv K 512 ≤ fld (c.op 2) 31 0)) 6]
    atOnce := M == 0 || N == 0 || (K == 0 && c.acc) }

/-- The header of a compressed X passes and agrees with W and Y (R128, R146): the cause, 0 where it does. -/
def X.smulHeader (x : X) : X × Nat :=
  let ds := x.run.descs
  let d := dAt ds 1
  let h := x.region d 0 64
  if h.2.2 then (h.1, 0)
  else
    let t := TileHdr.ofNat h.2.1
    (h.1, firstCause [orCause (tileHdrOk h.2.1 d.count) 7, orCause (t.ety != 4) 3,
      orCause (t.rows == (dAt ds 2).N1 && t.cols == (dAt ds 0).N1) 2])

/-- Segments of a row's non-zeros, 64 each (R132). -/
def segments : Nat → List Nat → List (List Nat)
  | 0, _ => []
  | f + 1, ks => if ks.isEmpty then [] else ks.take 64 :: segments f (ks.drop 64)

def segsOf (ks : List Nat) : List (List Nat) := segments (ks.length / 64 + 1) ks

/-- The charge of a row (R136): its non-zeros and the number of its outputs. -/
def rowCharge (ks : List Nat) (nm : Nat) : Nat :=
  ((segsOf ks).map (fun s => 1 + ceilDiv (s.getLastD 0 - s.headD 0 + 1) 512 + nm * ceilDiv s.length 16)).sum

/-- Rows of an admission from row `m` (R136): those whose charges stay within the budget, and at least one. -/
def takeRows (charge : Nat → Nat) (M budget : Nat) : Nat → Nat → Nat → Nat
  | 0, m, _ => m
  | f + 1, m, sum =>
    if M ≤ m then m
    else
      let c := charge m
      if c = 0 ∨ sum + c ≤ budget then takeRows charge M budget f (m + 1) (sum + c) else m

/-- Read one row of bits of a bitmap operand, all 1 where it is absent. -/
def X.bitRow (x : X) (d : Option Desc) (m n : Nat) : X × List Bool × Bool :=
  match d with
  | none => (x, List.replicate n true, false)
  | some d =>
    let r := (List.range n).foldl (fun (a : X × List Bool × Bool) c =>
      let q := a.1.raw d 1 ⟨c, m, 0, 0⟩; (q.1, (q.2.1 == 1) :: a.2.1, a.2.2 || q.2.2)) (x, [], false)
    (r.1, r.2.1.reverse, r.2.2)

/-- The dot-unit check (R157) of a segment: its partial result, with the pattern that strikes it in its first group, against the
second sum of the same products (R365). `ps` holds the matched products of the segment: index, operands, product. -/
def dotCheck (pat : W32) (ps : List (Nat × (Ex × Ex) × (W32 × Flags))) : Bool :=
  match ps with
  | [] => false
  | p :: _ =>
    let leaf (k : Nat) : W32 × Flags := ((ps.find? (fun q => q.1 == k)).map (·.2.2)).getD (0#32, {})
    let parts := (rangeFrom (p.1 / 32) ((ps.getLastD p).1 / 32 - p.1 / 32 + 1)).map (fun g =>
      (groupSum ((rangeFrom (32 * g) 32).map leaf)).1 ^^^ (if g = p.1 / 32 then pat else 0#32))
    let terms := ps.map (fun q => chkMul q.2.1.1 q.2.1.2)
    chkDiffers (chkSum (parts.map W32.ex)) (chkSum terms) (chkSum (terms.map Ex.abs))

/-- What one output of SMUL leaves: matched pairs, a detection, a magnitude sum of +inf. -/
structure SOut where
  pairs : Nat := 0
  det : Bool := false
  unch : Bool := false
deriving DecidableEq, Repr

/-- One output of SMUL (R134): leaves of the matched indices, folded in groups. `row` holds the row's non-zeros with their values,
`keep k` says whether the weight is kept. A second sum stands beside each partial result (R157); a fault of stage 0 strikes that of the
first segment that has a match, one of stage 16 + j that of the j-th after it. -/
def X.smulOut (x : X) (y w : Desc) (zm : Option Desc) (acc : Bool) (q m n : Nat) (row : List (Nat × Ex)) (keep : Nat → Bool)
    (on bad : Bool) (fs : List CFault) : X × SOut :=
  let l := n + y.N0 * m
  let out (x : X) (v z : Nat) (p : Bool) : X :=
    match zm with | some d => (x.put y l v p).put d (n + d.n0 * m) z p | none => x.put y l v p
  if bad then (out x 0 0 true, {})
  else if !on then (out x 0 0 false, {})
  else
    let old := if acc then (match y.at l with | some i => x.raw y 1 i | none => (x, 0, false)) else (x, 0, false)
    if old.2.2 then (out old.1 0 0 true, {})
    else
      let r := (row.filter (fun p => keep p.1)).foldl (fun (a : X × List (Nat × (Ex × Ex) × (W32 × Flags))) p =>
        let v := a.1.val w 1 (n + w.N0 * p.1)
        (v.1, (p.1, (p.2, v.2.1), mulEx p.2 v.2.1) :: a.2)) (old.1, [])
      let ps := r.2.reverse
      let leaf (k : Nat) : W32 × Flags := ((ps.find? (fun p => p.1 == k)).map (·.2.2)).getD (0#32, {})
      let segs := (((segsOf (row.map (·.1))).map (fun s => ps.filter (fun p => s.contains p.1))).filter (fun s => !s.isEmpty)).zipIdx.map
        (fun s => (faultPat fs (if s.2 = 0 then 0 else 16 + s.2) m n, s.1))
      let hit (g : Nat) : W32 := segs.foldl (fun a s => match s.2 with | p :: _ => if p.1 / 32 = g then a ^^^ s.1 else a | [] => a) 0#32
      let gs := (List.range q).map (fun g => let v := groupSum ((rangeFrom (32 * g) 32).map leaf); (v.1 ^^^ hit g, v.2))
      let v := foldSums (BitVec.ofNat 32 old.2.1) gs
      let w' := v.1 ^^^ faultPat fs 1 m n
      let mag := chkSum (ps.map (fun p => (chkMul p.2.1.1 p.2.1.2).abs))
      (out (r.1.orF v.2) w'.toNat (if w' = 0#32 then 0 else 1) false,
        { pairs := ps.length, det := segs.any (fun s => dotCheck s.1 s.2), unch := mag.isInf })

/-- Rows that continuations before this one have written: a poisoned W or bitmap poisons every output of the instruction
(Table DI-4). They were counted as offered when they were written. -/
def X.repoison (x : X) (y : Desc) (zm : Option Desc) (rows N : Nat) : X :=
  (List.range (rows * N)).foldl (fun x i =>
    let put (x : X) (d : Desc) (l : Nat) : X := match d.at l with | some j => x.putIx d j 0 true | none => x
    let x := put x y (i % N + y.N0 * (i / N))
    match zm with | some d => put x d (i % N + d.n0 * (i / N)) | none => x) x

/-- One admission's execution of SMUL (R131-R139). -/
def X.smul (x : X) : X :=
  let c := x.run.cmd
  let ds := x.run.descs
  let w := dAt ds 0
  let xd := dAt ds 1
  let y := dAt ds 2
  let K := w.N1
  let N := w.N0
  let M := y.N1
  let ct := x.run.cont.getD {}
  let fs := x.e.faults
  let x0 := x
  -- a compressed X: header and bitmap
  let hd := if c.xForm then x.region xd 0 64 else (x, 0, false)
  let t := TileHdr.ofNat hd.2.1
  let tb := if c.xForm && t.form && !hd.2.2 then hd.1.tileBits xd t else (hd.1, [], hd.2.2)
  let mk := if dHas ds 3 then tb.1.maskBits (dAt ds 3) (List.range ((dAt ds 3).n0 * (dAt ds 3).n1)) else (tb.1, [], false)
  let keep (k n : Nat) : Bool := !dHas ds 3 || keptBit mk.2.1 (dAt ds 3).n0 w n k
  let bitsOf (x : X) (m : Nat) : X × List Bool × Bool :=
    if c.xForm then (x, if t.form then (tb.2.1.drop (m * K)).take K else List.replicate K true, false)
    else x.bitRow (ds.getD 4 none) m K
  -- the splitter: bits of every row, and the rows of this admission
  let rows := (List.range M).map (fun m => if m < ct.rows then [] else (bitsOf mk.1 m).2.1)
  let outs := (List.range M).map (fun m => if m < ct.rows then [] else (mk.1.bitRow (ds.getD 5 none) m N).2.1)
  let nz (m : Nat) : List Nat := ((rows.getD m []).zipIdx.filter (·.1)).map (·.2)
  let nm (m : Nat) : Nat := ((outs.getD m []).filter id).length
  let charge (m : Nat) : Nat := rowCharge (nz m) (nm m)
  let first := ct.rows
  let stop0 := takeRows charge M (fld (c.op 2) 31 0) (M + 1) first 0
  let stop := if stop0 = first ∧ first < M then first + 1 else stop0
  let ms := rangeFrom first (stop - first)
  if c.xForm && !hd.2.2 && t.form && !tb.2.2 && (tb.2.1.filter id).length != t.nnz then { tb.1 with cause := 7 }
  else
    -- bitmap words of the rows taken are read; a poisoned one poisons every output
    let bm := ms.foldl (fun (a : X × Bool) m =>
      let b := bitsOf a.1 m
      let o := b.1.bitRow (ds.getD 5 none) m N
      (o.1, a.2 || b.2.2 || o.2.2)) (mk.1, hd.2.2 || tb.2.2 || mk.2.2)
    let valOf (x : X) (m k : Nat) : X × Ex × Bool :=
      if c.xForm then
        let e := x.tileEl xd t tb.2.1 (m * K + k)
        let sc := e.1.tileScale xd t ((m * K + k) / 32)
        (sc.1, ((t.ty).val e.2.1).scale sc.2.1, e.2.2 || sc.2.2)
      else x.val xd 1 (k + K * m)
    -- W words read: any poisoned one poisons every output
    let ws := ms.foldl (fun (a : X × Bool) m => (nz m).foldl (fun a k => (List.range N).foldl (fun a n =>
      if (outs.getD m []).getD n false && keep k n then let v := a.1.val w 1 (n + w.N0 * k); (v.1, a.2 || v.2.2) else a) a) a) bm
    let all := ct.bad || ws.2
    let start : X := { ws.1 with flags := bm.1.flags }
    let start := if all && !ct.bad then start.repoison y (ds.getD 6 none) first N else start
    let r := ms.foldl (fun (a : X × Nat × Nat × Bool × Nat) m =>
      let row := (nz m).foldl (fun (b : X × List (Nat × Ex) × Bool) k =>
        let v := valOf b.1 m k; (v.1, (k, v.2.1) :: b.2.1, b.2.2 || v.2.2)) (a.1, [], false)
      let o := (List.range N).foldl (fun (b : X × Nat × Bool × Bool) n =>
        let z := b.1.smulOut y w (ds.getD 6 none) c.acc (ceilDiv K 32) m n row.2.1.reverse (fun k => keep k n)
          ((outs.getD m []).getD n false) (all || row.2.2) fs
        (z.1, b.2.1 + z.2.pairs, b.2.2.1 || z.2.det, b.2.2.2 || z.2.unch)) (row.1, 0, false, false)
      (o.1, a.2.1 + o.2.1, a.2.2.1 + (segsOf (nz m)).length, a.2.2.2.1 || o.2.2.1, a.2.2.2.2 + b2n o.2.2.2))
      (start, 0, 0, false, 0)
    let pairs := ct.pairs + r.2.1
    let segs := ct.segs + r.2.2.1
    let y := r.1
    -- a leaf that the merge stage has not received (R157)
    let lost := fs.any (fun f => decide (f.stage = 4) && f.pat != 0#32 && ms.contains f.row && decide (f.col < N))
    ({ y with
      s := y.s.bump cSeUnchecked r.2.2.2.2
      det := y.det || r.2.2.2.1 || lost
      result := BitVec.ofNat 64 (min pairs (2 ^ 32 - 1) + min segs 65535 * 2 ^ 32 + min ct.conts 255 * 2 ^ 48)
      run := { y.run with cont := some { rows := stop, flags := ct.flags.or (y.flags.or x0.flags), pairs, segs,
                                         conts := ct.conts + 1, poison := ct.poison + y.pw.length, bad := all,
                                         pAt := if ct.poison = 0 then y.pAt.getD (0, 0, 0) else ct.pAt } } } : X).residue

/-! ### GATHER and SCATTER -/

/-- The type of a moved row: patterns of values that a Skipper instruction may write (R147, R188; rows of U32, U64 or BYTE elements
are rejected with TYPE, log entry 102). -/
def moveTypes : List ETy := [.zf8, .zg8, .zf16, .zg16, .za32]

/-- The types of a row that is read to be moved: a ZM32 element is read as the ZF16 value of its `HIGH` half (R72, R188). -/
def moveSrc : List ETy := moveTypes ++ [.zm32]

/-- The `ETYPE` under which an operand is moved (R188). -/
def Desc.movEty (d : Desc) : Nat := if d.ty = .zm32 then 2 else d.ety

/-- The pattern that is moved of element `l` (R188). -/
def X.movPat (x : X) (s : Desc) (l : Nat) : X × Nat × Bool :=
  let v := x.pat s 1 l
  if s.ty = .zm32 then (v.1, v.2.1 / 65536, v.2.2) else v

/-- Checks of GATHER and SCATTER (R147-R151). -/
def gatherChecks (c : Cmd) (ds : List (Option Desc)) : Checks :=
  let s := dAt ds 0
  let d := dAt ds 1
  let ix := dAt ds 2
  let sc := c.opcode == oScatter
  let rag := fbit (c.op 1) 0
  let padded := if sc then s else d
  let n := ix.count
  let L := padded.N1 / (n - 1)
  let rows := if rag then n != 0 && padded.N1 == (n - 1) * L && (n != 1 || padded.N1 == 0)
    else n == (if sc then s.N1 else d.N1)
  { roles := [{ tys := moveSrc, spaces := if sc then [1] else [0, 1] }, { tys := moveTypes, spaces := if sc then [0, 1] else [1] },
      { tys := [.u32], spaces := [1], record := true }]
    sizes := orCause (s.N0 == d.N0 && rows) 2
    own := [orCause (zeroIn (c.op 0) 63 48 && zeroIn (c.op 1) 63 2 && (sc || !fbit (c.op 1) 1)) 1,
      orCause ([s, d].all (fun d => d.N2 == 1 && d.N3 == 1) && ix.N1 == 1 && ix.N2 == 1 && ix.N3 == 1) 2,
      orCause (s.movEty == d.ety && s.bscaled == d.bscaled && (!c.acc || !sc || s.ty == .za32)) 3]
    atOnce := if rag then (if sc then s.empty || d.empty else d.empty) else (if sc then n == 0 || s.N0 == 0 || d.empty else d.empty) }

/-- The counts of a GATHER or SCATTER (R151). -/
structure GCnt where
  rows : Nat := 0
  nulls : Nat := 0
  oob : Nat := 0
  trunc : Nat := 0
deriving DecidableEq, Repr

def GCnt.word (g : GCnt) : W64 :=
  BitVec.ofNat 64 (satN 16 g.rows + satN 16 g.nulls * 2 ^ 16 + satN 16 g.oob * 2 ^ 32 + satN 16 g.trunc * 2 ^ 48)

/-- The scale byte of a moved element goes with it when both tensors are block-scaled; a fill element carries scale 0
(R200; log entry 50). -/
def X.moveScale (x : X) (s d : Desc) (ls : Option Nat) (ld : Nat) : X :=
  if d.bscaled then
    match d.at ld with
    | none => x
    | some i =>
      let sc := match ls.bind s.at with | some j => x.scale s j | none => (x, 0, false)
      sc.1.putScale d (d.sigma i / 32) sc.2.1 sc.2.2
  else x

/-- Move one element: from column j of row `src` of the source (`none`: fill) to that of row `dst` of the destination, adding with
`acc`. -/
def X.moveEl (x : X) (s d : Desc) (acc : Bool) (src : Option Nat) (dst j : Nat) : X :=
  let l := j + d.N0 * dst
  let ls := src.map (fun r => j + s.N0 * r)
  let v := match ls with
    | some a => x.movPat s a
    | none => (x, s.fill, false)
  if acc then
    let old := match d.at l with | some i => v.1.raw d 1 i | none => (v.1, 0, false)
    if v.2.2 || old.2.2 then old.1.put d l 0 true
    else
      let r := addEx (W32.ex (BitVec.ofNat 32 old.2.1)) (W32.ex (BitVec.ofNat 32 v.2.1))
      (old.1.orF r.2).put d l r.1.toNat false
  else (v.1.moveScale s d ls l).put d l v.2.1 v.2.2

/-- Move one row. -/
def X.moveRow (x : X) (s d : Desc) (acc : Bool) (src : Option Nat) (dst : Nat) : X :=
  (List.range d.N0).foldl (fun x j => x.moveEl s d acc src dst j) x

/-- A row that falls outside the destination: every element is offered and dropped (R149, R207). -/
def X.dropRow (x : X) (d : Desc) : X := { x with offered := x.offered + d.N0, dropped := x.dropped + d.N0 }

/-- Insert an index with its source row after those that are not above it. -/
def insIdx (p : Nat × Nat) : List (Nat × Nat) → List (Nat × Nat)
  | [] => [p]
  | q :: t => if p.1 < q.1 then p :: q :: t else q :: insIdx p t

/-- The source rows of a SCATTER by destination row, both ascending. -/
def scatterRows (N1 : Nat) (idx : List Nat) : List (Nat × List Nat) :=
  let ps := (idx.zipIdx.filter (fun p => decide (p.1 < N1))).foldl (fun l p => insIdx p l) []
  ((ps.map (·.1)).eraseDups).map (fun r => (r, (ps.filter (fun p => p.1 == r)).map (·.2)))

/-- The moves of a SCATTER through an ALIAS destination: in ascending λ there, and in ascending source row where several add into one
logical index (R149, R205). -/
def X.scatterAlias (x : X) (s d : Desc) (acc : Bool) (idx : List Nat) : X :=
  (scatterRows d.N1 idx).foldl (fun x r =>
    (List.range d.N0).foldl (fun x j => r.2.foldl (fun x i => x.moveEl s d acc (some i) r.1 j) x) x) x

/-- Rows in index mode (R148, R149). -/
def X.idxRows (x : X) (s d : Desc) (scatter acc : Bool) (idx : List Nat) : X × GCnt :=
  let dup := scatter && !d.injective
  let r := idx.zipIdx.foldl (fun a p =>
    let x := a.1
    let g := a.2
    if scatter then
      if p.1 = 2 ^ 32 - 1 then (x, { g with nulls := g.nulls + 1 })
      else if d.N1 ≤ p.1 then (x.dropRow d, { g with oob := g.oob + 1 })
      else (if dup then x else x.moveRow s d acc (some p.2) p.1, { g with rows := g.rows + 1 })
    else if p.1 = 2 ^ 32 - 1 then (x.moveRow s d false none p.2, { g with rows := g.rows + 1, nulls := g.nulls + 1 })
    else if s.N1 ≤ p.1 then (x.moveRow s d false none p.2, { g with rows := g.rows + 1, oob := g.oob + 1 })
    else (x.moveRow s d false (some p.1) p.2, { g with rows := g.rows + 1 })) (x, {})
  if dup then (r.1.scatterAlias s d acc idx, r.2) else r

/-- Rows in ragged mode (R150): sequences of at most `L` rows with offsets `o`. -/
def X.raggedRows (x : X) (s d : Desc) (unpad acc : Bool) (L : Nat) (o : List Nat) : X × GCnt :=
  ((o.zip (o.drop 1)).zipIdx).foldl (fun a p =>
    let lo := p.1.1
    let len := p.1.2 - lo
    let a := (a.1, { a.2 with trunc := a.2.trunc + (len - L) })
    if unpad then
      (List.range (min len L)).foldl (fun a t =>
        if d.N1 ≤ lo + t then (a.1.dropRow d, { a.2 with oob := a.2.oob + 1 })
        else (a.1.moveRow s d acc (some (p.2 * L + t)) (lo + t), { a.2 with rows := a.2.rows + 1 })) a
    else
      (List.range L).foldl (fun a t =>
        let out := decide (s.N1 ≤ lo + t)
        let src := if t < len ∧ !out then some (lo + t) else none
        (a.1.moveRow s d false src (p.2 * L + t),
          { a.2 with rows := a.2.rows + 1, oob := a.2.oob + b2n (decide (t < len) && out) })) a) (x, {})

/-- Is a list ascending (each element at least its predecessor)? -/
def ascending : List Nat → Bool
  | a :: b :: t => decide (a ≤ b) && ascending (b :: t)
  | _ => true

/-- One execution of GATHER or SCATTER (R147-R151). -/
def X.moveRows (x : X) (scatter : Bool) : X :=
  let c := x.run.cmd
  let s := dAt x.run.descs 0
  let d := dAt x.run.descs 1
  let ix := dAt x.run.descs 2
  let r := x.list ix ix.count
  let rag := fbit (c.op 1) 0
  if r.2.2 then (r.1.poisonAll d).freeResult
  else if rag && !ascending r.2.1 then r.1.fail { cause := 8, src := 0 }
  else
    let L := (if scatter then s.N1 else d.N1) / (ix.count - 1)
    let acc := scatter && c.acc
    let q := if rag then r.1.raggedRows s d scatter acc L r.2.1 else r.1.idxRows s d scatter acc r.2.1
    { q.1 with result := q.2.word }.residue

def X.gather (x : X) : X := x.moveRows false
def X.scatter (x : X) : X := x.moveRows true

/-! ### MERGE -/

/-- Checks of MERGE (R152): all three payload descriptors of Table SK-9 or none (log entry 101); an operand outside the tile store is
rejected with PLACE (Table SK-4). -/
def mergeChecks (c : Cmd) (ds : List (Option Desc)) : Checks :=
  let ak := dAt ds 0
  let av := dAt ds 1
  let bk := dAt ds 2
  let bv := dAt ds 3
  let ok := dAt ds 4
  let ov := dAt ds 5
  let pay := [dHas ds 1, dHas ds 3, dHas ds 5]
  let all := pay.all id
  let sum := fbit (c.op 1) 32
  let flat (d : Desc) := d.N1 == 1 && d.N2 == 1 && d.N3 == 1
  let key : Role := { tys := [.u32], spaces := [1], record := true }
  let val (tys : List ETy) : Role := { tys := if sum then [.za32] else tys, spaces := [1] }
  { roles := [key, val moveSrc, key, val moveSrc, key, val moveTypes]
    sizes := orCause (decide (ak.N0 + bk.N0 ≤ ok.N0) && (!all || (av.N0 == bv.N0 && av.N0 == ov.N0 && av.N1 == ak.N0 && bv.N1 == bk.N0 &&
      decide (ak.N0 + bk.N0 ≤ ov.N1)))) 2
    own := [orCause (zeroIn (c.op 1) 63 33 && (all || !pay.any id)) 1,
      orCause (!all || (av.movEty == ov.ety && bv.movEty == ov.ety && av.bscaled == bv.bscaled && av.bscaled == ov.bscaled)) 3,
      orCause (flat ak && flat bk && flat ok && (!all || [av, bv, ov].all (fun d => d.N2 == 1 && d.N3 == 1))) 2]
    atOnce := ak.count + bk.count == 0 }

/-- The merged order (R153): keys with (list B?, index in the list); among equal keys A before B. -/
def mergeKeys : Nat → List (Nat × Nat) → List (Nat × Nat) → List (Nat × Bool × Nat)
  | 0, _, _ => []
  | f + 1, a, b =>
    match a, b with
    | [], [] => []
    | p :: as, [] => (p.1, false, p.2) :: mergeKeys f as []
    | [], q :: bs => (q.1, true, q.2) :: mergeKeys f [] bs
    | p :: as, q :: bs =>
      if p.1 ≤ q.1 then (p.1, false, p.2) :: mergeKeys f as (q :: bs) else (q.1, true, q.2) :: mergeKeys f (p :: as) bs

/-- A list's payload is read: whether a value word or a scale word of it is poisoned (Table DI-4). -/
def X.payload (x : X) (d : Desc) (n : Nat) : X × Bool :=
  let v := x.pats d 1 (List.range (d.N0 * n))
  let pl := d.auxPlace x.tile
  if d.bscaled then
    (List.range (ceilDiv d.stCount 32)).foldl (fun (a : X × Bool) j =>
      let r := a.1.read pl.1 1 (pl.2 + (j : Nat)) 1; (r.1, a.2 || r.2.2)) (v.1, v.2.any (·.2))
  else (v.1, v.2.any (·.2))

/-- One execution of MERGE (R153). -/
def X.merge (x : X) : X :=
  let ds := x.run.descs
  let ak := dAt ds 0
  let bk := dAt ds 2
  let ok := dAt ds 4
  let ov := dAt ds 5
  let pay := dHas ds 1
  let sum := fbit (x.run.cmd.op 1) 32
  let a := x.list ak ak.count
  let b := a.1.list bk bk.count
  let all (x : X) : X := let x := x.poisonAll ok; if pay then x.poisonAll ov else x
  if a.2.2 || b.2.2 then (all b.1).freeResult
  else if !ascending a.2.1 || !ascending b.2.1 then { b.1 with cause := 8 }
  else
    let m := mergeKeys (ak.count + bk.count + 1) a.2.1.zipIdx b.2.1.zipIdx
    let pa := if pay then b.1.payload (dAt ds 1) ak.count else (b.1, false)
    let pb := if pay then pa.1.payload (dAt ds 3) bk.count else (pa.1, false)
    let payBad := pa.2 || pb.2
    let b := pb.1
    let r := m.foldl (fun (st : X × Nat × Nat × Option Nat) p =>
      let x := st.1
      let src := dAt ds (if p.2.1 then 3 else 1)
      if sum && st.2.2.2 == some p.1 then
        (if pay then x.moveRow src ov true (some p.2.2) (st.2.1 - 1) else x, st.2.1, st.2.2.1 + 1, some p.1)
      else
        let x := x.put ok st.2.1 p.1 false
        (if pay then x.moveRow src ov false (some p.2.2) st.2.1 else x, st.2.1 + 1, st.2.2.1, some p.1)) (b, 0, 0, none)
    let x := if payBad then all { r.1 with buf := b.buf, els := b.els, half := b.half, offered := 0, done := 0, dropped := 0, flags := x.flags } else r.1
    { x with result := BitVec.ofNat 64 (r.2.1 + r.2.2.1 * 2 ^ 32) }.residue

/-! ### COMPACT -/

def Cmd.expand (c : Cmd) : Bool := fbit (c.op 0) 32

/-- The header of a dense R x C operand (Table SK-7), `NNZ` and `FORM` apart. -/
def Desc.tileHdr (d : Desc) : TileHdr :=
  { form := false, ety := etyTile d.ty, scaled := d.bscaled, rows := d.N1, cols := d.N0, nnz := 0 }

/-- Checks of COMPACT (R143, R154). -/
def compactChecks (c : Cmd) (ds : List (Option Desc)) : Checks :=
  let s := dAt ds 0
  let d := dAt ds 1
  let dense := if c.expand then d else s
  let packed := if c.expand then s else d
  let t := dense.tileHdr
  let b : Role := { tys := [.byte], record := true }
  { roles := if c.expand then [b, { tys := moveTypes }] else [{ tys := moveSrc }, b]
    sizes := orCause (c.expand || decide (64 + t.area + t.vd ≤ packed.count)) 2
    own := [orCause (zeroIn (c.op 0) 63 33) 1,
      orCause (dense.N2 == 1 && dense.N3 == 1 && decide (dense.N1 ≤ 4096) && decide (dense.N0 ≤ 32768) &&
        (!dense.bscaled || dense.N0 * dense.N1 % 32 == 0)) 2,
      orCause (packed.base % 64 == 0) 4]
    atOnce := s.empty || (c.expand && d.empty) }

/-- Write consecutive bytes of a region. -/
def X.putRegion (x : X) (d : Desc) (o : Nat) (bs : List Byte) (p : Bool) : X :=
  (bs.zipIdx).foldl (fun x b => x.put d (o + b.2) b.1.toNat p) x

/-- The result word of COMPACT (R154). -/
def TileHdr.word (t : TileHdr) : W64 := BitVec.ofNat 64 (t.nnz + t.bytes % 2 ^ 31 * 2 ^ 32 + b2n t.form * 2 ^ 63)

/-- Is a pattern zero under R125? -/
def zeroPat (ty : ETy) (v : Nat) : Bool := v == 0 || (ty == .za32 && v == 0x80000000)

/-- COMPACT, `DIR` 0: the tile in the form of R144; its scale bytes stand in the block order of R198. -/
def X.compress (x : X) (s d : Desc) : X :=
  let n := s.count
  let r := x.pats s 1 (List.range n)
  let sc := if s.bscaled then
      (List.range (n / 32)).foldl (fun (a : X × List Byte × Bool) b =>
        match (if s.padded then s.at (32 * b) else some (s.unsigma (32 * b))) with
        | some i => let q := a.1.scale s i; (q.1, a.2.1 ++ [BitVec.ofNat 8 (unsigned 8 q.2.1)], a.2.2 || q.2.2)
        | none => (a.1, a.2.1 ++ [0#8], a.2.2)) (r.1, [], false)
    else (r.1, [], false)
  let t0 := s.tileHdr
  if r.2.any (·.2) || sc.2.2 then
    (sc.1.putRegion d 0 (List.replicate (64 + t0.area + t0.vd) 0) true).freeResult
  else
    let vs := r.2.map (fun v => if s.ty = .zm32 then v.1 / 65536 else v.1)
    let bs := vs.map (fun v => !zeroPat s.ty v)
    let t1 := { t0 with nnz := (bs.filter id).length }
    let t := { t1 with form := decide (t1.bm + t1.vc < t1.vd) }
    let rowWords (r : Nat) : List Byte :=
      leBytes (8 * ceilDiv t.cols 64) ((((bs.drop (r * t.cols)).take t.cols).zipIdx).foldl (fun a b => a + b2n b.1 * 2 ^ b.2) 0)
    let bm := if t.form then padTo t.bm ((List.range t.rows).flatMap rowWords) else []
    let kept := if t.form then ((vs.zip bs).filter (·.2)).map (·.1) else vs
    let body := t.toBytes ++ bm ++ padTo t.area sc.2.1 ++
      padTo (if t.form then t.vc else t.vd) (kept.flatMap (leBytes t.ty.size))
    { sc.1.putRegion d 0 body false with result := t.word }

/-- COMPACT, `DIR` 1: the header check, then the dense tile. -/
def X.expandTile (x : X) (s d : Desc) : X :=
  let h := x.region s 0 64
  if h.2.2 then (h.1.poisonAll d).freeResult
  else
    let t := TileHdr.ofNat h.2.1
    let bad := firstCause [orCause (tileHdrOk h.2.1 s.count) 7, orCause (t.ty == d.ty && t.scaled == d.bscaled) 3,
      orCause (t.rows == d.N1 && t.cols == d.N0) 2]
    if bad ≠ 0 then h.1.fail { cause := bad, src := 0 }
    else
      let tb := if t.form then h.1.tileBits s t else (h.1, [], false)
      if tb.2.2 then (tb.1.poisonAll d).freeResult
      else if t.form && (tb.2.1.filter id).length != t.nnz then { tb.1 with cause := 7 }
      else
        let x := (List.range d.count).foldl (fun x l => let v := x.tileEl s t tb.2.1 l; v.1.put d l v.2.1 v.2.2) tb.1
        let x := if d.bscaled then
            (List.range (ceilDiv d.stCount 32)).foldl (fun x g =>
              let v := x.tileScale s t g
              v.1.putScale d g v.2.1 v.2.2) x
          else x
        { x with result := t.word }

/-- One execution of COMPACT (R154). -/
def X.compact (x : X) : X :=
  let s := dAt x.run.descs 0
  let d := dAt x.run.descs 1
  (if x.run.cmd.expand then x.expandTile s d else x.compress s d).residue

end Sys2Proof.Machine
end

