-- ==== Sys2Proof/Machine/Sram.lean ====
section
/-!
DEFINITION. SRAM outside the tile stores (R235, R244-R246, R253, R254): its words are decoded where they are used; what an uncorrectable
word costs, and what a pattern leaves that the decoder takes for a good word.
-/
namespace Sys2Proof.Machine

/-- The command of a number, queued or admitted. -/
def State.cmdOf (s : State) (id : Nat) : Option Cmd :=
  match s.findRun id with
  | some r => some r.cmd
  | none => (List.range 160).findSome? (fun q => ((s.queue q).ents.find? (fun h => h.cmd.id == id)).map (·.cmd))

/-- Change the command of a number, queued or admitted. -/
def State.modCmd (s : State) (id : Nat) (f : Cmd → Cmd) : State :=
  let s := s.modRun id (fun r => { r with cmd := f r.cmd })
  (List.range 160).foldl (fun s q =>
    let v := s.queue q
    if v.ents.any (fun h => h.cmd.id == id) then
      s.setQueue q { v with ents := v.ents.map (fun h => if h.cmd.id == id then { h with cmd := f h.cmd } else h) }
    else s) s

/-- An uncorrectable word in the state of a job (Table DI-5, source 28). -/
def State.jobState (s : State) (d : Nat) (c : Option Cmd) : State :=
  s.contained d { cls := 2, src := 28, mkind := 3, cmd := c, acc := 1 } []

/-- Count what a decoder has met: of Chimney's SRAM only while the package has its registers. -/
def State.countSram (s : State) (w : ScrubStore) (f : State → State) : State :=
  if w = .chimney ∧ s.pwr.pkg ≠ .released then s else f s

/-- Change the leaf that holds word `n` of a reduction store: the leaves in their order, 16 words each. -/
def onLeaf (t : Tab (Option LeafRec)) (n : Nat) (f : LeafRec → LeafRec) : Tab (Option LeafRec) :=
  modAt t (n / 16) (fun e => (e.1, e.2.map f))

/-- An uncorrectable word outside the tile stores (R253, Table DI-5). The table names no outcome for the reduction store, a port's buffer
and Chimney's SRAM: the leaf or the packet's data is poisoned, the key is absent (log entry 98). -/
def State.sramLost (s0 : State) (w : ScrubStore) (n : Nat) : State :=
  let s := s0.countSram w (·.bump cSramUe 1)
  match w with
  | .validMap k => s.setMem (s.mem.loseMap k)
  | .queue id => (match s.cmdOf id with | some c => s.jobState c.dom (some c) | none => s)
  | .cocoon id =>
    (match s.findRun id with
     | some r => if r.st = .detected then s.jobState r.cmd.dom (some r.cmd) else s.modRun id (fun r => { r with badCocoon := true })
     | none => s)
  | .context c => (s.setRb (rRouteCtl c) 0 false).jobState (s.ctxDom c) none
  | .update d => (s.modDom d (fun x => { x with jlost := true })).jobState d none
  | .module => s.fatal { cls := 3, src := 49, mkind := 3, mid := 0, acc := 1 }
  | .leaves id => s.modColl id (fun c => { c with leaves := onLeaf c.leaves n (fun l => { l with poison := true }) })
  | .port p => s.modPort p (fun t => { t with rx := modAt t.rx (n / 32) (fun k => { k with pmask := 2 ^ (k.data.length / 16) - 1 }) })
  | .chimney => { s with chim := { s.chim with jobKeys := Tab.set keyReset s.chim.jobKeys (n / 8) none } }
  | _ => s

/-- The bits of a register word that its fields hold. -/
def fieldMask (off : Nat) : W64 := (regFields off).foldl (fun m f => m ||| maskW f.hi f.lo) 0#64

/-- The bytes of a word pattern XORed into bytes from `o` on. -/
def xorBytes (bs : List Byte) (o : Nat) (x : W64) : List Byte :=
  bs.zipIdx.map (fun b => if o ≤ b.2 ∧ b.2 < o + 8 then b.1 ^^^ BitVec.ofNat 8 (fld x (8 * (b.2 - o) + 7) (8 * (b.2 - o))) else b.1)

/-- Word `n` of what a queue holds for a command beside its entry: from 8 on the descriptor copies, eight words each, from 256 on the
entries of the snapshot (Table MS-4). -/
def flipDescs (ds : List (Option Desc)) (n : Nat) (x : W64) : List (Option Desc) :=
  if 8 ≤ n ∧ n < 256 then modAt ds ((n - 8) / 8) (fun d => d.map (fun d => d.flip (x.toNat * 2 ^ (64 * ((n - 8) % 8))))) else ds
def flipPages (ps : List Page) (n : Nat) (x : W64) : List Page :=
  if 256 ≤ n then modAt ps (n - 256) (fun p => { p with present := p.present != fbit x 0, write := p.write != fbit x 1, host := p.host != fbit x 3
                                                        addr := p.addr ^^^ fld x 51 12 * 4096 }) else ps

/-- Word `w` of a micro-command's gradient block: four elements. -/
def Ucmd.flip (u : Ucmd) (w : Nat) (x : W64) : Ucmd :=
  { u with blk := { u.blk with elems := u.blk.elems.zipIdx.map (fun e =>
      if e.2 / 4 = w then e.1 ^^^ fld x (16 * (e.2 % 4) + 15) (16 * (e.2 % 4)) else e.1) } }

/-- Word `n` of the update state of a domain: below 16 the latched schedule record, below 64 the write pointers of the journals, below 2^16
the gradient blocks of the micro-commands in the batch, above those in the FIFOs, 2^13 words a stack, 16 an entry. -/
def State.flipUpdate (s : State) (d n : Nat) (x : W64) : State :=
  if n < 16 then
    s.modStep d (fun st => { st with latched := st.latched.map (fun r =>
      r.zipIdx.map (fun v => if v.2 / 2 = n then v.1 ^^^ BitVec.ofNat 32 (fld x (32 * (v.2 % 2) + 31) (32 * (v.2 % 2))) else v.1)) })
  else if n < 64 then
    s.modDom d (fun y => { y with jptr := Tab.set natReset y.jptr (n - 16) (Tab.get natReset y.jptr (n - 16) ^^^ x.toNat) })
  else if n < 2 ^ 16 then { s with upd := { s.upd with batch := modAt s.upd.batch ((n - 64) / 16) (fun u => u.flip ((n - 64) % 16) x) } }
  else
    let k := (n - 2 ^ 16) / 2 ^ 13
    s.setFifo k (modAt (s.fifo k) (n % 2 ^ 13 / 16) (fun r => match r with | .micro u => .micro (u.flip (n % 16) x) | r => r))

/-- What an error leaves in word `n` of a structure when its decoder took it for a good word (R246): wrong data. The spec gives no layout of
these words; how the model numbers them is log entry 98. -/
def State.wordLeft (s : State) (w : ScrubStore) (n left : Nat) : State :=
  let x : W64 := BitVec.ofNat 64 (left % 2 ^ 64)
  if left = 0 then s
  else match w with
  | .validMap k => s.setMem (s.mem.flipMap k left)
  | .queue id =>
    if n < 8 then s.modCmd id (fun c => { c with words := modAt c.words n (· ^^^ x) })
    else
      let s := s.modRun id (fun r => { r with descs := flipDescs r.descs n x, pages := flipPages r.pages n x })
      (List.range 160).foldl (fun s q =>
        let v := s.queue q
        if v.ents.any (fun h => h.cmd.id == id) then
          s.setQueue q { v with ents := v.ents.map (fun h =>
            if h.cmd.id == id then { h with descs := flipDescs h.descs n x, pages := flipPages h.pages n x } else h) }
        else s) s
  | .cocoon id =>
    s.modRun id (fun r => { r with kept := r.kept.zipIdx.map (fun b =>
      if b.2 / 8 = n then (b.1.1, b.1.2.1 ^^^ BitVec.ofNat 8 (fld x (8 * (b.2 % 8) + 7) (8 * (b.2 % 8))), b.1.2.2) else b.1) })
  | .context c =>
    if n < 128 then s.setReg (rBias c (2 * n)) (s.reg (rBias c (2 * n)) ^^^ x)
    else if n < 256 then
      let e := 2 * (n - 128)
      let t := (s.ctx c).staged
      let t := Tab.set w32Reset t e (Tab.get w32Reset t e ^^^ BitVec.ofNat 32 (fld x 31 0))
      s.modCtx c (fun y => { y with staged := Tab.set w32Reset t (e + 1) (Tab.get w32Reset t (e + 1) ^^^ BitVec.ofNat 32 (fld x 63 32)) })
    else s
  | .module => s.setReg (8 * n) (s.reg (8 * n) ^^^ (x &&& fieldMask (8 * n)))
  | .update d => s.flipUpdate d n x
  | .leaves id =>
    s.modColl id (fun c =>
      let size := ((tileEty c.ety).getD .za32).size
      let bytes (l : LeafRec) : List Byte := xorBytes (l.elems.flatMap (leBytes size)) (8 * (n % 16)) x
      { c with leaves := onLeaf c.leaves n (fun l =>
          { l with elems := (List.range l.elems.length).map (fun i => leNat (((bytes l).drop (i * size)).take size)) }) })
  | .port p => s.modPort p (fun t => { t with rx := modAt t.rx (n / 32) (fun k => { k with data := xorBytes k.data (8 * (n % 32)) x }) })
  | .chimney =>
    let key := (Tab.get keyReset s.chim.jobKeys (n / 8)).map (fun k => xorBytes k (8 * (n % 8)) x)
    { s with chim := { s.chim with jobKeys := Tab.set keyReset s.chim.jobKeys (n / 8) key } }
  | _ => s

/-- The decoder reads a word that holds errors (R246, R253, R254); where scrub reads it, a correction is written back at once (R255). -/
def State.seeErr (back : Bool) (s0 : State) (r : (ScrubStore × Nat) × BitVec 80) : State :=
  let s := s0.dropErr r
  match bchDecode r.2.toNat with
  | .bad => (s.unqueue r.1).sramLost r.1.1 r.1.2
  | .fixed f =>
    let t := (s.countSram r.1.1 State.sramFixed).wordLeft r.1.1 r.1.2 (r.2.toNat ^^^ f)
    if back then t.unqueue r.1 else t.holdErr r.1 f
  | .clean => (s.unqueue r.1).wordLeft r.1.1 r.1.2 r.2.toNat

/-- A structure is used: each word of it that holds errors is decoded. -/
def State.seeSram (s : State) (w : ScrubStore) : State :=
  (s.integ.errs.filter (fun r => r.1.1 == w)).foldl (State.seeErr false) s

/-- The head of a queue is used: its entry, descriptors and snapshot (Table DI-5). -/
def State.seeHead (s : State) (q : Nat) : State :=
  match s.head q with
  | some h => s.seeSram (.queue h.cmd.id)
  | none => s

/-! ### Residues of the fabric die -/

/-- The number that Table FC-3 gives a unit. -/
def fdUnitId : FdUnit → Nat
  | .scheduler => 0
  | .damper => 1
  | .netif => 2
  | .updater => 3

/-- A unit of the fabric die operates (R366): on a residue mismatch it repeats the operation once, which changes nothing; a second one is
Fatal. -/
def State.fdCheck (s : State) (u : FdUnit) : State :=
  if s.integ.resid.contains u then
    let t := { s with integ := { s.integ with resid := s.integ.resid.filter (· != u) } }
    if 2 ≤ s.integ.resid.count u then t.fatal { cls := 3, src := 50, mkind := 3, mid := fdUnitId u, acc := 6 } else t
  else s

/-- Units of the fabric die operate: the control words that they use are decoded (R235, R246, Table DI-5), their datapaths checked (R366). -/
def State.useFd (s : State) (us : List FdUnit) : State := us.foldl State.fdCheck (s.seeSram .module)

/-- The command at the head of a queue is served by the frame scheduler: its entry is decoded, the scheduler's datapath and its tallies
checked. -/
def State.atHead (s : State) (q : Nat) : State := (s.seeHead q).useFd [.scheduler]

end Sys2Proof.Machine
end

