-- ==== Sys2Proof/Machine/Experts.lean ====
section
/-!
DEFINITION. Expert routing (06_expert_routing): ROUTE, the answer queue, COMBINE, the Draught loop.
-/
namespace Sys2Proof.Machine

/-! ### Contexts -/

/-- The context of a command is enabled and its domain's, and no epoch advance is pending (R158, R182): the cause, at
descriptor load (log entry 121). -/
def State.ctxCause (s : State) (c : Cmd) : Nat :=
  firstCause [orCause (s.ctxOn c.ctxNo && s.ctxDom c.ctxNo == c.dom) 10, orCause (!s.rb (rRouteEpoch c.ctxNo) 16) 11]

/-! ### ROUTE -/

def Cmd.topk (c : Cmd) : Nat := fld (c.op 1) 11 8
def Cmd.alts (c : Cmd) : Nat := fld (c.op 1) 13 12
def Cmd.wnorm (c : Cmd) : Bool := fbit (c.op 1) 14
def Cmd.cap (c : Cmd) : Nat := fld (c.op 1) 28 16
def Cmd.batch (c : Cmd) : Nat := fld (c.op 1) 47 32

/-- Checks of ROUTE (R161, Tables ER-2, ER-6); its outputs lie in the tile store (PLACE). -/
def State.routeChecks (s : State) (c : Cmd) (ds : List (Option Desc)) : Checks :=
  let sc := dAt ds 0
  let di := dAt ds 1
  let tm := dAt ds 2
  let hd := dAt ds 3
  let E := s.experts c.ctxNo
  let outer (d : Desc) := d.N2 == 1 && d.N3 == 1
  { roles := [{ tys := [.za32, .zf16, .zg16, .zm32], spaces := [0, 1, 2] }, { tys := [.u32], spaces := [1], record := true },
      { tys := [.u64], spaces := [1], record := true }, { tys := [.byte], spaces := [1], record := true }]
    sizes := orCause (tm.N1 == sc.N1) 2
    own := [orCause (zeroIn (c.op 1) 7 6 && zeroIn (c.op 1) 15 15 && zeroIn (c.op 1) 31 29 && zeroIn (c.op 1) 63 48) 1,
      s.ctxCause c,
      orCause (outer sc && sc.N0 == E && decide (sc.N1 ≤ 65536) && decide (1 ≤ c.topk ∧ c.topk ≤ 8 ∧ c.topk ≤ E) &&
        decide (1 ≤ c.cap ∧ c.cap ≤ 4096) && outer di && di.N0 == c.cap && di.N1 == E && outer tm && tm.N0 == c.topk &&
        hd.count == 64) 2]
    atOnce := sc.N1 == 0 }

/-- Insert an expert into an order: higher score first, equal scores in ascending number (R162). -/
def insScore (p : Nat × Ex) : List (Nat × Ex) → List (Nat × Ex)
  | [] => [p]
  | q :: t => if q.2.lt p.2 then p :: q :: t else q :: insScore p t

/-- A token's order (R162): `none` for a NaN token; with the flags of the biased sums. -/
def tokenOrder (scores : List Ex) (biases : List Ex) : Option (List Nat) × Flags :=
  let r := List.zipWith addEx scores biases
  let fl := r.foldl (fun f p => f.or p.2) ({} : Flags)
  let vs := r.map (fun p => W32.ex p.1)
  if scores.any Ex.isNan || vs.any Ex.isNan then (none, fl.or fNV)
  else (some (((vs.zipIdx).foldl (fun l p => insScore (p.2, p.1) l) []).map (·.1)), fl)

/-- State of the slot assignment (R163). -/
structure Asg where
  fill : List Nat
  cursor : List Nat
  /-- Dispatch entries: (expert, slot, token); served choices: (token, rank, expert, slot, tries). -/
  disp : List (Nat × Nat × Nat) := []
  served : List (Nat × Nat × Nat × Nat × Nat) := []
  dropped : Nat := 0
deriving DecidableEq, Repr

/-- The inner loop of R163: the expert that serves, the tries spent, and the cursor after them. -/
def pickExpert (order : List Nat) (fill : List Nat) (C alts : Nat) : Nat → Nat → Nat → Nat → Option (Nat × Nat) × Nat
  | 0, _, _, cur => (none, cur)
  | f + 1, e, tries, cur =>
    if fill.getD e 0 < C then (some (e, tries), cur)
    else if tries = alts ∨ cur = order.length then (none, cur)
    else pickExpert order fill C alts f (order.getD cur 0) (tries + 1) (cur + 1)

/-- One choice (t, j) of R163. -/
def assignOne (orders : List (Option (List Nat))) (C alts : Nat) (a : Asg) (j t : Nat) : Asg :=
  match orders.getD t none with
  | none => { a with dropped := a.dropped + 1 }
  | some o =>
    let r := pickExpert o a.fill C alts (alts + 2) (o.getD j 0) 0 (a.cursor.getD t 0)
    let a := { a with cursor := modAt a.cursor t (fun _ => r.2) }
    match r.1 with
    | none => { a with dropped := a.dropped + 1 }
    | some (e, tries) =>
      { a with disp := (e, a.fill.getD e 0, t) :: a.disp, served := (t, j, e, a.fill.getD e 0, tries) :: a.served,
               fill := modAt a.fill e (· + 1) }

/-- The whole assignment (R163): ranks in turn, tokens in turn within a rank. -/
def assignAll (orders : List (Option (List Nat))) (E K C alts : Nat) : Asg :=
  (List.range K).foldl (fun a j => (List.range orders.length).foldl (fun a t => assignOne orders C alts a j t) a)
    { fill := List.replicate E 0, cursor := List.replicate orders.length K }

/-- Combine weights of a token's served choices in ascending rank (R164): weights, whether normalising failed, flags. -/
def tokenWeights (wnorm : Bool) (ws : List W32) : List W32 × Bool × Flags :=
  if !wnorm then (ws, false, {})
  else
    let r := ws.foldl (fun (a : W32 × Flags) w => let v := addZ a.1 w; (v.1, a.2.or v.2)) (0#32, {})
    match W32.ex r.1 with
    | .fin m _ =>
      if 0 < m then
        let q := ws.map (fun w => divZ w r.1)
        (q.map (·.1), false, q.foldl (fun f p => f.or p.2) r.2)
      else (ws, true, r.2)
    | _ => (ws, true, r.2)

/-- A token map entry (Table ER-3); of a choice that is dropped the whole entry is 0, ALT too, whatever tries it took (log entry 128). -/
def mapEntry (w e slot tries : Nat) : Nat := w + e * 2 ^ 32 + slot * 2 ^ 40 + 2 ^ 56 + tries * 2 ^ 57

/-- One execution of ROUTE (R162-R165). `snap` holds the epoch and the biases taken at set-up; the demand of each expert is
appended to it (R166); of poisoned scores the spec states none, and it is free (log entry 68). -/
def X.route (x : X) : X :=
  let c := x.run.cmd
  let sd := dAt x.run.descs 0
  let di := dAt x.run.descs 1
  let tm := dAt x.run.descs 2
  let hd := dAt x.run.descs 3
  let E := sd.N0
  let T := sd.N1
  let K := c.topk
  let ep := x.run.snap.getD 0 0
  let biases := ((x.run.snap.drop 1).take E).map (fun b => W32.ex (BitVec.ofNat 32 b))
  let r := x.vals sd 1 (List.range (T * E))
  if r.2.any (·.2) then
    let y := (((r.1.poisonAll di).poisonAll tm).poisonAll hd).freeResult
    let d := (List.range E).foldl (fun (a : X × List Nat) _ => let v := a.1.s.freeWord; ({ a.1 with s := v.2 }, v.1.toNat % 2 ^ 32 :: a.2)) (y, [])
    { d.1 with run := { d.1.run with snap := x.run.snap ++ d.2 } }
  else
    let cv := r.2.map (fun v => convZA32 v.1)
    let vals := cv.map (fun v => W32.ex v.1)
    let row (t : Nat) := (vals.drop (t * E)).take E
    let os := (List.range T).map (fun t => tokenOrder (row t) biases)
    let orders := os.map (·.1)
    let a := assignAll orders E K c.cap c.alts
    let demand := (List.range E).map (fun e =>
      ((orders.map (fun o => match o with | some l => ((l.take K).filter (· == e)).length | none => 0)).sum))
    let wt := (List.range T).map (fun t =>
      let mine := (List.range K).filterMap (fun j => a.served.find? (fun p => p.1 == t && p.2.1 == j))
      let q := tokenWeights c.wnorm (mine.map (fun p => (toZA32 ((row t).getD p.2.2.1 Ex.zero)).1))
      (mine.zip q.1, q.2.1, q.2.2, mine.isEmpty))
    let fl := os.foldl (fun f o => f.or o.2) (wt.foldl (fun (f : Flags) p => f.or p.2.2.1) (cv.foldl (fun (f : Flags) v => f.or v.2) {}))
    let n1 := a.served.length
    let hdr := ep + c.batch * 2 ^ 16 + c.ctxNo * 2 ^ 32 + K * 2 ^ 40 + E * 2 ^ 48 + T * 2 ^ 64 + c.cap * 2 ^ 96 +
      n1 * 2 ^ 128 + a.dropped * 2 ^ 160 + (a.served.filter (fun p => decide (0 < p.2.2.2.2))).length * 2 ^ 192 +
      (wt.filter (·.2.2.2)).length * 2 ^ 224 + (orders.filter Option.isNone).length * 2 ^ 256 + (wt.filter (·.2.1)).length * 2 ^ 288
    let x := (r.1).orF fl
    let x := (List.range (E * c.cap)).foldl (fun x l =>
      x.put di l ((((a.disp.find? (fun p => p.1 * c.cap + p.2.1 == l)).map (·.2.2))).getD (2 ^ 32 - 1)) false) x
    let x := (List.range T).foldl (fun x t =>
      (List.range K).foldl (fun x j =>
        let v := match ((wt.getD t ([], false, {}, true)).1).find? (fun p => p.1.2.1 == j) with
          | some (p, w) => mapEntry w.toNat p.2.2.1 p.2.2.2.1 p.2.2.2.2
          | none => 0
        x.put tm (t * K + j) v false) x) x
    let x := ((leBytes 64 hdr).zipIdx).foldl (fun x b => x.put hd b.2 b.1.toNat false) x
    let ledger := T * K == n1 + a.dropped && a.disp.length == n1
    { x with result := BitVec.ofNat 64 (n1 + a.dropped * 2 ^ 32), run := { x.run with snap := x.run.snap ++ demand },
             det := x.det || !ledger }.residue

/-- What a kept ROUTE adds when it completes (R165, R166): dropped choices, and its demand, saturating. -/
def State.routeDone (s : State) (r : Run) : State :=
  let c := r.cmd.ctxNo
  let E := (r.snap.length - 1) / 2
  let s := s.bump (cRouteDrop c) (fld r.res.result 63 32)
  s.modCtx c (fun x => { x with load := ((r.snap.drop (1 + E)).zipIdx).foldl (fun t p =>
    Tab.set natReset t p.2 (satN 32 (Tab.get natReset t p.2 + p.1))) x.load })

/-! ### Draught loop -/

/-- The Draught loop of one context at a stoke (R167): staged biases while a step of the domain is open, live ones
otherwise. -/
def State.draught (s : State) (c : Nat) : State :=
  let x := s.ctx c
  let E := s.experts c
  let L (e : Nat) := Tab.get natReset x.load e
  let S := ((List.range E).map L).sum
  if S = 0 then s
  else
    let open' := s.stepOpenB (s.ctxDom c)
    let beta := BitVec.ofNat 32 (s.rf (rDraughtBeta c) 31 0)
    let bmax := BitVec.ofNat 32 (s.rf (rDraughtBmax c) 31 0)
    let m := let q := stickyDiv S E 0; round32 q.1 q.2
    let s := (List.range E).foldl (fun s e =>
      let l := toZA32 (.fin (L e) 0)
      let d := subZ m.1 l.1
      let p := mulZ beta d.1
      let b := if open' then Tab.get w32Reset (s.ctx c).staged e else s.bias c e
      let y := addZ b p.1
      let ov := m.2.ov || l.2.ov || d.2.ov || p.2.ov || y.2.ov
      let s := if ov then s.setRb (rDraughtStatus c) 1 true else s
      if (W32.ex y.1).isNan then s.setRb (rDraughtStatus c) 0 true
      else
        let v := (minZ (maxZ y.1 (negZ bmax).1).1 bmax).1
        if open' then s.modCtx c (fun x => { x with staged := Tab.set w32Reset x.staged e v }) else s.setBias c e v) s
    s.modCtx c (fun x => { x with load := [] })

/-- The Draught loop for every enabled context. -/
def State.draughtAll (s : State) : State :=
  (List.range 64).foldl (fun s c => if s.ctxOn c then s.draught c else s) s

/-! ### Answer queue -/

/-- The check of the answer port (R170, Table ER-5). -/
def State.answerOk (s : State) (c h : Nat) : Bool :=
  let rows := bits h 54 48
  let len := bits h 93 80
  bits h 39 38 == 0 && bits h 63 56 == 0 && bits h 255 94 == 0 && bits h 37 32 == c && decide (bits h 47 40 < s.experts c) &&
  decide (1 ≤ rows ∧ rows ≤ 64) && decide (1 ≤ len ∧ len ≤ 8192) &&
  decide (32 + rows * len * (if bit h 55 then 2 else 4) ≤ s.aqBytes c)

/-- The block of the lowest source tile among those that arrive (R170). -/
def firstArrival : List Ans → Option Ans
  | [] => none
  | a :: t =>
    match firstArrival t with
    | none => some a
    | some b => if b.src < a.src then some b else some a

/-- ANSWER_BLOCK_ARRIVAL (R170, R182): a malformed or stale block is discarded with its credit, another joins the queue. A
header that is poisoned fails the check (log entry 51). The state of the context is decoded as it is used (Table DI-5). -/
def execAnswerBlockArrival (c : Nat) (s0 : State) : Host.Outcome State Fault Refusal :=
  let s := s0.seeSram (.context c)
  match firstArrival (s.ctx c).inflight with
  | none => .next s
  | some a =>
    let t := s.aqTile c
    let off := s.aqOff c a.slot
    let r := s.tileBytesAt t off 32
    let h := leNat r.2.1
    let s := r.1.modCtx c (fun x => { x with inflight := x.inflight.erase a, held := x.held.filter (fun h => h.1 != a.id) })
    .next (
      if r.2.2 || !s.answerOk c h then
        let s := ((s.creditBack c).bump (cAqBad c) 1).settleEpoch c
        s.contained (s.ctxDom c) ({ cls := 2, src := 23, addr := t / 48 * 2 ^ 29 + t % 48 * 2 ^ 23 + off, akind := 3, mkind := 1,
                                    mid := t / 48 + t % 48 * 2 + s.rf (rTileMap t) 5 0 * 2 ^ 7 } : Ev) []
      else if bits h 15 0 ≠ s.epoch c ∨ s.rb (rRouteEpoch c) 16 then
        (((s.modCtx c (fun x => { x with stale := x.stale + 1 })).creditBack c).bump (cRouteStale c) 1).settleEpoch c
      else s.modCtx c (fun x => { x with queue := x.queue ++ [a] }))

/-- The lowest slot of a context that no credit holds. -/
def State.freeSlot (s : State) (c : Nat) : Nat :=
  let x := s.ctx c
  ((List.range (s.aqSlots c)).find? (fun k => !x.held.any (fun h => h.2.2 == k) && !x.queue.any (fun a => a.slot == k))).getD 0

/-! ### COMBINE -/

/-- Checks of COMBINE that need no header (R172, Table ER-7). -/
def State.combineChecks (s : State) (c : Cmd) (ds : List (Option Desc)) (tile : Option Nat) : Checks :=
  let y := dAt ds 0
  let hd := dAt ds 1
  { roles := [{ tys := [.za32], spaces := [1] }, { tys := [.byte], spaces := [0, 1, 2], record := true },
      { tys := [.u64], spaces := [0, 1, 2], record := true }, { tys := [.u32], spaces := [0, 1, 2], record := true }]
    own := [orCause (zeroIn (c.op 1) 63 7) 1, s.ctxCause c,
      orCause (tile == some (s.aqTile c.ctxNo)) 4,
      orCause (y.N2 == 1 && y.N3 == 1 && hd.count == 64 && (dAt ds 2).N2 == 1 && (dAt ds 2).N3 == 1 && (dAt ds 3).N2 == 1 &&
        (dAt ds 3).N3 == 1) 2]
    atOnce := y.count == 0 }

/-- The header agrees with the context and the operands (R172): the lowest-numbered cause that applies (R97; log entries 82, 112). The
reserved bits of the token map count among the reserved fields (R10). -/
def State.combineHeader (s : State) (r : Run) (m : CmbSet) : Nat :=
  let ds := r.descs
  let c := r.cmd.ctxNo
  let h := m.h
  minCause [orCause (bits h 37 32 == c) 10,
    orCause (bits h 39 38 == 0 && bits h 47 44 == 0 && bits h 63 57 == 0 && bits h 127 109 == 0 && h / 2 ^ 320 == 0 &&
      m.tmap.all (fun w => w / 2 ^ 59 == 0)) 1,
    orCause (bits h 56 48 == s.experts c && (dAt ds 0).N1 == bits h 95 64 && (dAt ds 2).N1 == bits h 95 64 &&
      (dAt ds 2).N0 == bits h 43 40 && (dAt ds 3).N0 == bits h 108 96 && (dAt ds 3).N1 == bits h 56 48) 2,
    orCause (bits h 15 0 == s.epoch c && !s.rb (rRouteEpoch c) 16) 11]

end Sys2Proof.Machine
end

