-- ==== Sys2Proof/Machine/Recipe.lean ====
section
/-!
DEFINITION. Recipes of the Grate units (11_update_engine, R297-R301, R315, R317): decoding, acceptance, the operations of a
block micro-command, INVERT.
-/
namespace Sys2Proof.Machine

/-! ### Recipes as data -/

def rOp (w : Nat) : Nat := bits w 5 0
def rD (w : Nat) : Nat := bits w 9 6
def rA (w : Nat) : Nat := bits w 13 10
def rB (w : Nat) : Nat := bits w 17 14
def rC (w : Nat) : Nat := bits w 21 18
def rImm (w : Nat) : Nat := bits w 27 22

/-- Decode the 320 bytes of a recipe (Tables UE-7, UE-8). -/
def recipeOf (bs : List Byte) : Recipe :=
  let h := leNat (bs.take 64)
  let ws := (List.range 64).map (fun j => leNat ((bs.drop (64 + 4 * j)).take 4))
  let n := bits h 6 0
  { ops := ws.take n, stoch := bit h 7, matrix := bit h 8, energy := bits h 63 32,
    ks := (List.range 8).map (fun k => BitVec.ofNat 32 (bits h (32 * k + 95) (32 * k + 64))),
    rsvd0 := bits h 31 9 == 0 && bits h 511 320 == 0 && ws.all (fun w => bits w 31 28 == 0) && (ws.drop n).all (· == 0),
    count := n }

/-- The range of `IMM` of an operation (R301). -/
def immMax (op : Nat) : Nat := if op = 3 then 39 else if op = 2 ∨ op = 20 then 2 else if op = 21 then 3 else 0

/-- ADDW, MOVW and STW come after an LDW (R301). -/
def afterLdw : Bool → List Nat → Bool
  | _, [] => true
  | seen, w :: ws => (seen || !(rOp w == 18 || rOp w == 5 || rOp w == 19)) && afterLdw (seen || rOp w == 4) ws

def Recipe.has (r : Recipe) (op : Nat) : Bool := r.ops.any (fun w => rOp w == op)
def Recipe.countOp (r : Recipe) (op : Nat) : Nat := (r.ops.filter (fun w => rOp w == op)).length

/-- The conditions of R301 for every use. -/
def Recipe.okAny (r : Recipe) : Bool :=
  r.rsvd0 && decide (1 ≤ r.count ∧ r.count ≤ 64) &&
  r.ops.all (fun w => decide (1 ≤ rOp w ∧ rOp w ≤ 22) && decide (rImm w ≤ immMax (rOp w))) && afterLdw false r.ops &&
  decide (r.countOp 19 ≤ 1) &&
  (if r.matrix then r.ops.all (fun w => rOp w == 3 || rOp w == 22) && r.countOp 22 == 1 else !r.has 22)

/-- Every plane named by LDS or STS is present in `STATES`. -/
def Recipe.planesIn (r : Recipe) (states : Nat) : Bool :=
  r.ops.all (fun w => !(rOp w == 2 || rOp w == 20) || bit states (rImm w))

/-- The conditions for step updates on a region. -/
def Recipe.okStep (r : Recipe) (states : Nat) : Bool := !r.matrix && !r.has 21 && r.planesIn states

/-- Does the recipe name the master planes, write them, name plane p, write plane p? -/
def Recipe.readsW (r : Recipe) : Bool := r.has 4
def Recipe.writesW (r : Recipe) : Bool := r.has 19
def Recipe.names (r : Recipe) (p : Nat) : Bool := r.ops.any (fun w => (rOp w == 2 || rOp w == 20) && rImm w == p)
def Recipe.writes (r : Recipe) (p : Nat) : Bool := r.ops.any (fun w => rOp w == 20 && rImm w == p)
/-- Does a recipe write a plane or hold INVERT (R314)? -/
def Recipe.writesAny (r : Recipe) : Bool := r.has 19 || r.has 20 || r.has 22

/-! ### One block -/

/-- What a block micro-command works on: gradient values with their scale, rho, constants and slots, planes as read. -/
structure BlkIn where
  grad : List Ex
  rho : W32
  ks : List W32
  slots : List W32
  w : List Nat
  planes : List (List Nat × Int)
  stoch : Bool
  step : Nat
  tid : Nat
  e0 : Nat
deriving DecidableEq, Repr

/-- The lanes of a pair: registers, W and whether ADDW formed it, what STW and STS have written, accumulator sums, flags. -/
structure BlkSt where
  regs : List (List W32) := List.replicate 16 (List.replicate 32 0#32)
  w : List Nat := List.replicate 32 0
  added : Bool := false
  stw : Option (List Nat) := none
  sts : Tab (Option (List Nat × Int)) := []
  acc : List (W32 × Flags) := List.replicate 4 (0#32, {})
  flags : Flags := {}
deriving DecidableEq, Repr

def stsReset (_ : Nat) : Option (List Nat × Int) := none

/-- The exact sum of R300. -/
def exSum : Ex → Ex → Ex
  | .nan x, _ => .nan x
  | _, .nan y => .nan y
  | .fin a e, .fin b f => let s := finAdd a e b f; .fin s.1 s.2
  | .inf n, _ => .inf n
  | _, .inf n => .inf n

/-- Store lanes in register `d` with the flags of the operation. -/
def BlkSt.put (b : BlkSt) (d : Nat) (vs : List (W32 × Flags)) : BlkSt :=
  { b with regs := modAt b.regs d (fun _ => vs.map (·.1)), flags := vs.foldl (fun f v => f.or v.2) b.flags }

/-- One operation of a block recipe (Table UE-9, R298-R300). -/
def BlkSt.op (i : BlkIn) (b : BlkSt) (w : Nat) : BlkSt :=
  let r (k : Nat) := b.regs.getD k []
  let A := r (rA w)
  let B := r (rB w)
  let C := r (rC w)
  let un (f : W32 → W32 × Flags) := b.put (rD w) (A.map f)
  let bi (f : W32 → W32 → W32 × Flags) := b.put (rD w) (List.zipWith f A B)
  match rOp w with
  | 1 => b.put (rD w) (i.grad.map (fun g => mulEx g (W32.ex i.rho)))
  | 2 =>
    let p := i.planes.getD (rImm w) ([], 0)
    b.put (rD w) (p.1.map (fun v => toZA32 ((ETy.val .zg16 v).scale p.2)))
  | 3 =>
    let k := if rImm w < 8 then i.ks.getD (rImm w) 0#32 else i.slots.getD (rImm w - 8) 0#32
    b.put (rD w) (List.replicate 32 (canonZ k))
  | 4 => { b with w := i.w, added := false, flags := if i.w.any (fun v => (zm32Val v).isNan) then b.flags.or fNV else b.flags }
  | 5 => b.put (rD w) (b.w.map (fun v => toZA32 (zm32Val v)))
  | 6 => bi addZ
  | 7 => bi subZ
  | 8 => bi mulZ
  | 9 => b.put (rD w) (List.zipWith (fun p c => let v := addZ p.1 c; (v.1, p.2.or v.2)) (List.zipWith mulZ A B) C)
  | 10 => bi minZ
  | 11 => bi maxZ
  | 12 => b.put (rD w) (List.zipWith (fun p c => let v := minZ p.1 c; (v.1, p.2.or v.2)) (List.zipWith maxZ A B) C)
  | 13 => un absZ
  | 14 => un negZ
  | 15 => un sqrtZ
  | 16 => un rsqrtZ
  | 17 => un recipZ
  | 18 =>
    let vs := List.zipWith (fun v a => zm32Of (exSum (zm32Val v) (W32.ex a))) b.w A
    { b with w := vs.map (fun v => v.1.toNat), added := true, flags := vs.foldl (fun f v => f.or v.2) b.flags }
  -- the words of an ADDW are written unchanged (R300); those as loaded come back within R71 where they are written (log entry 122)
  | 19 =>
    if b.added then { b with stw := some b.w }
    else
      let vs := b.w.map (fun v => zm32Of (zm32Val v))
      { b with stw := some (vs.map (fun v => v.1.toNat)), flags := vs.foldl (fun f v => f.or v.2) b.flags }
  | 20 =>
    let xs := A.map W32.ex
    let z := blockScale .zg16 xs
    let vs := (xs.zipIdx).map (fun p => convTo .zg16 false
      (if i.stoch then some (noise i.step (i.tid + 1 + rImm w) (i.e0 + p.2)) else none) (p.1.scale (-z)))
    { b with sts := Tab.set stsReset b.sts (rImm w) (some (vs.map (·.1), z)), flags := vs.foldl (fun f v => f.or v.2) b.flags }
  | 21 =>
    let g := groupSum (A.map (fun v => (v, ({} : Flags))))
    { b with acc := modAt b.acc (rImm w) (fun a => let v := addZ a.1 g.1; (v.1, a.2.or (g.2.or v.2))) }
  | _ => b

/-- A block recipe on one block. -/
def Recipe.run (r : Recipe) (i : BlkIn) : BlkSt :=
  let b := r.ops.foldl (BlkSt.op i) {}
  { b with flags := b.acc.foldl (fun f a => f.or a.2) b.flags }

/-! ### INVERT -/

/-- A matrix by rows, with the flags of the operations so far. -/
structure Mat where
  a : List (List W32)
  x : List (List W32)
  fl : Flags
deriving DecidableEq, Repr

def rowOf (m : List (List W32)) (k : Nat) : List W32 := m.getD k []
def elOf (m : List (List W32)) (i j : Nat) : W32 := (rowOf m i).getD j 0#32

/-- Apply an operation to a row, collecting flags. -/
def mapRow (f : W32 → W32 × Flags) (l : List W32) : List W32 × Flags :=
  let r := l.map f
  (r.map (·.1), r.foldl (fun a p => a.or p.2) {})

/-- `A - f * P` for two rows. -/
def subMul (f : W32) (a p : List W32) : List W32 × Flags :=
  let r := List.zipWith (fun u v => let m := mulZ f v; let d := subZ u m.1; (d.1, m.2.or d.2)) a p
  (r.map (·.1), r.foldl (fun s q => s.or q.2) {})

/-- Elimination step k of R317. -/
def Mat.elim (n : Nat) (m : Mat) (k : Nat) : Mat :=
  let r := recipZ (elOf m.a k k)
  let pa := mapRow (fun v => mulZ v r.1) (rowOf m.a k)
  let px := mapRow (fun v => mulZ v r.1) (rowOf m.x k)
  let m := { a := modAt m.a k (fun _ => pa.1), x := modAt m.x k (fun _ => px.1), fl := m.fl.or (r.2.or (pa.2.or px.2)) }
  (List.range n).foldl (fun (m : Mat) i =>
    if i = k then m
    else
      let f := elOf m.a i k
      let u := subMul f (rowOf m.a i) pa.1
      let v := subMul f (rowOf m.x i) px.1
      { a := modAt m.a i (fun _ => u.1), x := modAt m.x i (fun _ => v.1), fl := m.fl.or (u.2.or v.2) }) m

/-- The elimination from step k on, with the flags of all that was performed; whether a pivot fails the test. -/
def Mat.go (n : Nat) (test : Bool) (lim : W32) : Nat → Nat → Mat → Mat × Bool
  | 0, _, m => (m, false)
  | f + 1, k, m =>
    let p := absZ (elOf m.a k k)
    let m := if test then { m with fl := m.fl.or p.2 } else m
    if test && (W32.ex p.1).lt (W32.ex lim) then (m, true) else Mat.go n test lim f (k + 1) (m.elim n k)

/-- One attempt with `lam` (R317). -/
def invertTry (n : Nat) (m : List (List W32)) (lam lim : W32) (test : Bool) (fl : Flags) : Mat × Bool :=
  let a := (m.zipIdx).map (fun p => modAt p.1 p.2 (fun v => (addZ v lam).1))
  let f := (List.range n).foldl (fun f i => f.or (addZ (elOf m i i) lam).2) fl
  let one := (toZA32 (.fin 1 0)).1
  let x := (List.range n).map (fun i => (List.range n).map (fun j => if i = j then one else 0#32))
  Mat.go n test lim n 0 ⟨a, x, f⟩

/-- INVERT (R317): the result, whether λ was substituted, the flags of every operation performed (R298), a failed attempt's too. -/
def invert (n : Nat) (m : List (List W32)) (lam : W32) : List (List W32) × Bool × Flags :=
  let dm := (List.range n).foldl (fun (a : W32 × Flags) i =>
    let v := absZ (elOf m i i); let u := maxZ a.1 v.1; (u.1, a.2.or (v.2.or u.2))) (0#32, {})
  let lim := mulZ (round32 1 (-60)).1 dm.1
  let zero := (match W32.ex lam with | .fin 0 _ => true | _ => false)
  let r := invertTry n m lam lim.1 zero (if zero then dm.2.or lim.2 else dm.2)
  if r.2 then
    let tr := (List.range n).foldl (fun (a : W32 × Flags) i => let u := addZ a.1 (elOf m i i); (u.1, a.2.or u.2)) (0#32, r.1.fl)
    let q := divZ tr.1 (toZA32 (.fin n 0)).1
    let l := mulZ (round32 1 (-24)).1 q.1
    let t := invertTry n m l.1 lim.1 false (tr.2.or (q.2.or l.2))
    (t.1.x, true, t.1.fl)
  else (r.1.x, false, r.1.fl)

/-- The λ of a matrix recipe: lane 0 of the A register of its INVERT, after the LDKs before it. -/
def Recipe.lam (r : Recipe) (slots : List W32) : W32 × Flags :=
  let i : BlkIn := { grad := [], rho := 0#32, ks := r.ks, slots, w := [], planes := [], stoch := false, step := 0, tid := 0, e0 := 0 }
  let b := r.ops.foldl (fun (b : BlkSt) w => if rOp w = 22 then b else b.op i w) {}
  match r.ops.find? (fun w => rOp w == 22) with
  | some w =>
    let before := (r.ops.takeWhile (fun w => rOp w != 22)).foldl (fun (b : BlkSt) w => b.op i w) {}
    ((before.regs.getD (rA w) []).getD 0 0#32, b.flags)
  | none => (0#32, {})

/-- The slots of a schedule record of 32 words: slot 0 is the step tag as a number (R296). -/
def slotsOf32 (rec : List Nat) : List W32 :=
  (toZA32 (.fin (rec.getD 0 0) 0)).1 :: (rangeFrom 1 31).map (fun k => BitVec.ofNat 32 (rec.getD k 0))

end Sys2Proof.Machine
end

