-- ==== Sys2Proof/Machine/Frames.lean ====
section
/-!
DEFINITION. Frames, the Damper and the zones (02_frames_power_zones): token pool and grants (R43-R51), zone frequencies
(R58-R63), the admission test (R35-R41).
-/
namespace Sys2Proof.Machine

/-! ### Zones -/

/-- Zones 0-15 CD0, 16-31 CD1, 32-37 FZ0-FZ5 (R58). -/
def zoneCount : Nat := 38

/-- The neighbours of a zone (R58). -/
def zoneNbrs (z : Nat) : List Nat :=
  if z < 32 then
    let i := z % 16
    (if i % 4 < 3 then [z + 1] else []) ++ (if 0 < i % 4 then [z - 1] else []) ++
    (if i < 12 then [z + 4] else []) ++ (if 4 ≤ i then [z - 4] else [])
  else if z = 32 then [33, 34, 35, 36, 37]
  else if z = 33 then [32, 34, 35, 36, 37]
  else if z < 38 then [32, 33] else []

/-- Junction temperature of a zone in steps of 0.125 degrees (Table RG-2). -/
def State.tj (s : State) (z : Nat) : Int := signed 16 (s.rf (rZoneStatus z) 47 32)

/-- No admitted instruction runs in the zone (R60). -/
def State.zoneIdle (s : State) (z : Nat) : Bool := !s.runs.any (fun r => bit r.zones z)

def State.setFreq (s : State) (z c : Nat) : State := s.setRf (rZoneStatus z) 5 0 c

/-- Zones that return to their target by single steps (R63), as kept in `Frame.throttled`. -/
def State.setThrottled (s : State) (zs : List Nat) : State := { s with frame := { s.frame with throttled := zs } }

/-- Renew `THROTTLED`, `EMERGENCY` and `ZONE_THROTTLE_STATUS` (R41): a zone at its target is throttled no more. -/
def State.publishZones (s : State) : State :=
  let s := (List.range zoneCount).foldl (fun s z =>
    let below := decide (s.zFreq z < s.zTgt z)
    let s := s.setRb (rZoneStatus z) 8 below
    if below then s
    else (s.setRb (rZoneStatus z) 9 false).setThrottled (s.frame.throttled.filter (· != z))) s
  s.setRf rZoneThrottle 37 0
    ((List.range zoneCount).foldl (fun m z => if s.rb (rZoneStatus z) 8 then m + 2 ^ z else m) 0)

/-- The emergency throttle of zones (R63): half the current frequency, at least 1.0 GHz, in whole steps, an odd code rounded down (log
entry 85); a neighbour more than 2:1 faster is lowered to exactly twice. -/
def State.emergency (s : State) (zs : List Nat) : State :=
  let s := zs.foldl (fun s z => s.setFreq z (max (s.zFreq z / 2) 20)) s
  let fast := (List.range zoneCount).filter (fun n => zs.any (fun z => (zoneNbrs z).contains n && decide (2 * s.zFreq z < s.zFreq n)))
  let s := fast.foldl (fun s n =>
    s.setFreq n ((zoneNbrs n).foldl (fun m z => if zs.contains z then min m (2 * s.zFreq z) else m) (s.zFreq n))) s
  let hit := zs ++ fast.filter (fun n => !zs.contains n)
  let s := hit.foldl (fun s z => s.setRb (rZoneStatus z) 9 true) s
  let s := s.setThrottled (s.frame.throttled ++ hit.filter (fun z => !s.frame.throttled.contains z))
  let s := s.setRuns (s.runs.map (fun r => if hit.any (fun z => bit r.zones z) then { r with throttled := true } else r))
  s.publishZones

/-- Is a zone lowered at this stoke: at `THROT_TEMP` or above, or more than 30 K hotter than a neighbour (R62)? -/
def State.zoneHot (s : State) (z : Nat) : Bool :=
  decide ((8 * s.rf rZoneCtl 6 0 : Nat) ≤ s.tj z) || (zoneNbrs z).any (fun n => decide (s.tj n + 240 < s.tj z))

/-- The frequency a zone takes at a stoke before the 2:1 rule (R60, R62, R63): a hot zone goes down one step, or to its target where
that is lower, and one step where both conditions of R62 hold; that, and how a lowered zone returns, is log entry 84. -/
def State.zoneWant (s : State) (z : Nat) : Nat :=
  if !s.zoneIdle z then s.zFreq z
  else if s.zoneHot z then min (max (s.zFreq z - 1) 20) (max (s.zTgt z) 20)
  else if s.frame.throttled.contains z && decide (s.zFreq z < s.zTgt z) then s.zFreq z + 1
  else s.zTgt z

/-- The 2:1 rule (R60): beside a faster busy zone an idle zone keeps half its frequency; then an idle zone is lowered to
twice its slowest neighbour. -/
def State.clipZones (s : State) (w : List Nat) : List Nat :=
  let at' (l : List Nat) (z : Nat) := l.getD z 20
  let w1 := (List.range zoneCount).map (fun z =>
    if s.zoneIdle z then (zoneNbrs z).foldl (fun m n => if s.zoneIdle n then m else max m (ceilDiv (at' w n) 2)) (at' w z)
    else at' w z)
  (List.range zoneCount).map (fun z =>
    if s.zoneIdle z then (zoneNbrs z).foldl (fun m n => min m (2 * at' w1 n)) (at' w1 z) else at' w1 z)

/-- Zone changes of a stoke (R60, R62, R63); a zone lowered for its temperature or in an emergency goes back to its target one step
a stoke (log entry 84). -/
def State.stokeZones (s : State) : State :=
  let hot := (List.range zoneCount).filter (fun z => s.zoneIdle z && s.zoneHot z)
  let want := (List.range zoneCount).map s.zoneWant
  let w := s.clipZones want
  let s := if w = want then s else s.setRb rZoneCtl 8 true
  let s := s.setThrottled (s.frame.throttled ++ hit s hot)
  ((w.zipIdx).foldl (fun s p => if s.zFreq p.2 = p.1 then s else s.setFreq p.2 p.1) s).publishZones
where
  hit (s : State) (hot : List Nat) : List Nat := hot.filter (fun z => !s.frame.throttled.contains z)

/-- Supplies of all zones in millivolts (R59): the table's point, raised until no neighbour is more than 120 mV higher. -/
def State.supplies (s : State) : List Nat :=
  (List.range 10).foldl (fun v _ =>
    (List.range zoneCount).map (fun z => (zoneNbrs z).foldl (fun m n => max m (v.getD n 0 - 120)) (v.getD z 0)))
    ((List.range zoneCount).map (fun z => Config.fusedMv (s.zFreq z)))

/-! ### Damper -/

/-- Classes of token requests (R47). -/
inductive Cls where
  | link | grate | general
deriving DecidableEq, Repr

def State.setDamper (s : State) (d : Damper) : State := { s with frame := { s.frame with damper := d } }

/-- Tokens a class can draw: its reserve and the general pool (R47). -/
def Damper.avail (d : Damper) : Cls → Nat
  | .link => d.link + d.general
  | .grate => d.grate + d.general
  | .general => d.general

/-- Deduct `n` tokens, from the class's reserve first. -/
def Damper.take (d : Damper) (c : Cls) (n : Nat) : Damper :=
  let d := { d with granted := d.granted + n }
  match c with
  | .link => { d with link := d.link - n, general := d.general - (n - d.link) }
  | .grate => { d with grate := d.grate - n, general := d.general - (n - d.grate) }
  | .general => { d with general := d.general - n }

/-- Would the Damper grant `n` tokens (R43, R48, R51)? A request for no tokens needs nothing. -/
def Damper.grants (d : Damper) (c : Cls) (n : Nat) : Bool :=
  n == 0 || (!d.shut && !d.hold && decide (n ≤ d.avail c))

/-- Grant `n` tokens: they count as granted. -/
def State.grant (s : State) (c : Cls) (n : Nat) : State :=
  (s.setDamper (s.frame.damper.take c n)).bump cTokensGranted n

/-- The immediate grant to a replay (R369): what the pool holds, the general pool first; the rest is due at the next
stoke. While input power holds all grants (R51), all of it is due then. -/
def State.grantReplay (s : State) (n : Nat) : State :=
  let d := s.frame.damper
  let g := if d.hold then 0 else min d.general n
  let r := if d.hold then 0 else min d.grate (n - g)
  let l := if d.hold then 0 else min d.link (n - g - r)
  let got := g + r + l
  (s.setDamper { d with general := d.general - g, grate := d.grate - r, link := d.link - l, granted := d.granted + got,
                        due := d.due + (n - got), charged := d.charged + (n - got) }).bump cTokensGranted got

/-- The whole pool of a frame of period `T` microseconds at a cap (R45). -/
def State.poolOf (s : State) (cap us : Nat) : Nat := (cap - s.rf rPowerCtl 59 48) * us

/-- The Damper at a stoke: unspent tokens expire (R50), the cap takes effect (R46), carry charges come off the new pool
(R43), the reserves are set aside (R47), each in whole tokens rounded down, the rest to the general pool (log entry 86). -/
def State.stokeDamper (s : State) (carry : Nat) : State :=
  let d := s.frame.damper
  let s := s.bump cTokensExpired (d.link + d.grate + d.general)
  let cap := s.rf rPowerCtl 11 0
  let s := { s with frame := { s.frame with cap, released := false } }
  let pool := s.poolOf cap (s.rf rStokePeriod 12 0)
  let due := carry + d.due
  let ded := min due pool
  let left := pool - ded
  let link := left * s.rf rPowerCtl 22 16 / 100
  let grate := left * s.rf rPowerCtl 30 24 / 100
  (s.setDamper { d with pool, link, grate, general := left - link - grate, carried := ded, granted := 0, due := due - ded, charged := due,
                        shut := decide (pool < due) }).bump cTokensCarried ded

/-- The carry charge of an overrunning instruction (R43). -/
def State.carryOf (s : State) (r : Run) : Nat :=
  if r.budNum = 0 then 0 else ceilDiv (r.cmd.tokens * s.periodNs * r.budDen) r.budNum

/-! ### Admission -/

/-- Is frame time within the admission window of work with a bound (R34)? -/
def State.inGuard (s : State) : Bool := s.frame.guard || decide (s.periodNs - 2000 < s.now - s.frame.stokeAt)

/-- Tokens asked of the Damper: twice the declared count in twin mode (R373). -/
def State.tokensOf (s : State) (u : Unit') (c : Cmd) : Nat :=
  if u.tile.isSome && s.rb (rTwinCtl c.dom) 0 then 2 * c.tokens else c.tokens

/-- R40: the instruction can never be admitted: at the target frequencies, or with the pool at the cap in force (R46). -/
def State.neverFits (s : State) (u : Unit') (c : Cmd) : Bool :=
  let z := s.zonesOf u c
  decide ((s.periodNs - 2000) * lowest s.zTgt z < c.bound * 20) ||
  decide (s.poolOf s.frame.cap (s.rf rStokePeriod 12 0) < s.tokensOf u c)

/-- Condition 2 of R36, at the frame time. -/
def State.fitsTime (s : State) (u : Unit') (c : Cmd) : Bool :=
  let f := lowest s.zFreq (s.zonesOf u c)
  !s.frame.guard && decide ((s.now - s.frame.stokeAt) * f + c.bound * 20 ≤ (s.periodNs - 2000) * f)

/-- Logical tiles closed to admission: an overrun or a replay on the tile (R42, R369), a swap (R378), a drain while the die has a
SPARE (R381), a store being zeroed (R214). -/
def State.tileClosed (s : State) (t : Nat) : Bool :=
  s.tiles.zeroing.contains t ||
  (s.tiles.drains.contains t && (rangeFrom (52 * (t / 48)) 52).any (fun j => s.rf (rTileHealth j) 1 0 == 1)) || s.tiles.swaps.any (fun w => w.1 == t) ||
  s.runs.any (fun r => r.unit.tile == some t && (decide (0 < r.crossed) || r.replaying || r.st == .detected))

/-- Defer the head of a queue (R36): counted once an instruction and frame. -/
def State.deferHead (s : State) (q : Nat) (h : QEnt) (power : Bool) : State :=
  if power then
    (if h.deferP then s else (s.setHead q { h with deferP := true }).bump cDeferPower 1)
  else
    (if h.deferT then s else (s.setHead q { h with deferT := true }).bump cDeferTime 1)

end Sys2Proof.Machine
end

