-- ==== Sys2Proof/Machine/Func.lean ====
section
/-!
DEFINITION. FUNC (10_training_step, R260-R263): function tables, one element, one execution.
-/
namespace Sys2Proof.Machine

/-- Checks of FUNC that need no table (R261, Table TS-3). -/
def funcChecks (c : Cmd) (ds : List (Option Desc)) : Checks :=
  let xd := dAt ds 0
  let dy := dAt ds 1
  let od := dAt ds 2
  let td := dAt ds 3
  let back := fbit (c.op 1) 0
  { roles := [{ tys := [.zf8, .zg8, .zf16, .zg16, .za32, .zm32] }, { tys := [.zg8, .zg16, .za32] },
      { tys := [.zf8, .zg8, .zf16, .zg16, .za32] }, { tys := [.byte], spaces := [1], record := true, tcause := 22, pcause := 22 }]
    sizes := orCause (xd.sameSizes od && (!back || dy.sameSizes od)) 2
    own := [orCause (zeroIn (c.op 1) 63 2 && (back || !dHas ds 1)) 1,
      orCause (!fbit (c.op 1) 1 || od.ty == .zg8 || od.ty == .zg16) 3,
      orCause (td.rank == 1 && td.layout == 0 && td.n0 == 1152 && !td.padded && td.s0 == 1 && td.base % 64 == 0) 22]
    atOnce := od.empty }

/-- A function table as read (R260): `X_LO`, `INV_W`, `OUT_MODE`, knots, the words of the reserved bytes. -/
structure FTab where
  xlo : W32
  invW : W32
  hold : Bool
  v : List W32
  rsvd0 : Bool
  bad : Bool
deriving DecidableEq, Repr

/-- Read the table through its descriptor. -/
def X.funcTable (x : X) : X × FTab :=
  let d := dAt x.run.descs 3
  let r := x.pats d 1 (List.range 1152)
  let bs := r.2.map (fun p => BitVec.ofNat 8 p.1)
  let w (i : Nat) : Nat := leNat ((bs.drop (4 * i)).take 4)
  (r.1, { xlo := BitVec.ofNat 32 (w 0), invW := BitVec.ofNat 32 (w 1), hold := bit (w 2) 0,
          v := (List.range 257).map (fun j => BitVec.ofNat 32 (w (16 + j))),
          rsvd0 := w 2 / 2 == 0 && (rangeFrom 3 13).all (fun i => w i == 0) && (rangeFrom 273 15).all (fun i => w i == 0),
          bad := r.2.any (·.2) })

/-- The table passes R260 with every knot finite. -/
def FTab.ok (t : FTab) : Bool :=
  let fin (w : W32) := (W32.ex w).isFinite
  t.rsvd0 && fin t.xlo && fin t.invW && (match W32.ex t.invW with | .fin m _ => decide (0 < m) | _ => false) && t.v.all fin

/-- The table's check at load: cause `TABLE`, 0 where it passes; a poisoned table is not checked (R263). -/
def X.funcCheck (x : X) : X × Nat :=
  let r := x.funcTable
  (r.1, if r.2.bad then 0 else orCause r.2.ok 22)

/-- The segment of `u` (R262): its floor, clamped to 0 - 255; and whether `u` lies outside 0 - 256. -/
def segOf (u : Ex) : Nat × Bool :=
  match u with
  | .fin m e =>
    let fl : Int := if 0 ≤ e then m * (pow2 e : Int) else m / (pow2 (-e) : Int)
    (if fl < 0 then 0 else min fl.toNat 255, u.lt (.fin 0 0) || (Ex.fin 256 0).lt u)
  | .inf neg => (if neg then 0 else 255, true)
  | .nan _ => (0, false)

/-- `eval` of R262: result, flags, and whether u lies outside 0 - 256. -/
def FTab.eval (t : FTab) (x : W32) : W32 × Flags × Bool :=
  let a := subZ x t.xlo
  let u := mulZ a.1 t.invW
  let fl := a.2.or u.2
  if (W32.ex u.1).isNan then (u.1, fl, false)
  else
    let sg := segOf (W32.ex u.1)
    let w := subZ u.1 (toZA32 (.fin sg.1 0)).1
    let lo := maxZ w.1 0#32
    let hi := minZ lo.1 (toZA32 (.fin 1 0)).1
    let w' := if t.hold then (hi.1, w.2.or (lo.2.or hi.2)) else w
    let v0 := t.v.getD sg.1 0#32
    let dv := subZ (t.v.getD (sg.1 + 1) 0#32) v0
    let p := mulZ w'.1 dv.1
    let r := addZ v0 p.1
    (r.1, fl.or (w'.2.or (dv.2.or (p.2.or r.2))), sg.2)

/-- The result at a linear index (R262), and whether its u is out of range. -/
def X.funcAt (t : FTab) (xd : Desc) (dy : Option Desc) (x : X) (l : Nat) : X × (Ex × Bool) × Bool :=
  let r := x.val xd 1 l
  let g := match dy with | some d => r.1.val d 1 l | none => (r.1, Ex.zero, false)
  if r.2.2 || g.2.2 then (g.1, (Ex.zero, false), true)
  else
    let xi := convZA32 r.2.1
    let v := t.eval xi.1
    let fl := xi.2.or v.2.1
    match dy with
    | none => (g.1.orF fl, (W32.ex v.1, v.2.2), false)
    | some _ =>
      let gi := convZA32 g.2.1
      let y := mulZ gi.1 v.1
      (g.1.orF (fl.or (gi.2.or y.2)), (W32.ex y.1, v.2.2), false)

/-- One execution of FUNC (R262, R263). -/
def X.func (x : X) : X :=
  let c := x.run.cmd
  let xd := dAt x.run.descs 0
  let dy := if fbit (c.op 1) 0 then x.run.descs.getD 1 none else none
  let od := dAt x.run.descs 2
  let t := x.funcTable
  if t.2.bad then (t.1.poisonAll od).freeResult (maskW 31 0)
  else
    let out := (List.range od.count).filter (fun l => (X.funcAt t.2 xd dy x l).2.1.2)
    let y := X.convEls (fun x l => let r := X.funcAt t.2 xd dy x l; (r.1, r.2.1.1, r.2.2)) od (fbit (c.op 1) 1) none
      x.run.stepNo (List.range od.count) [] { t.1 with conv := true }
    { y with result := BitVec.ofNat 64 (satN 32 out.length) }

end Sys2Proof.Machine
end

