-- ==== Sys2Proof/Machine/Run.lean ====
section
/-!
DEFINITION. Executions of tile and DMA instructions: one execution and its outcome (R111, R207, R223, R249-R251), detection
and replay (R368-R374), attribution, quarantine and spare substitution (R375-R379).
-/
namespace Sys2Proof.Machine

/-! ### Tiles: events, quarantine, swaps -/

def State.tileState (s : State) (j : Nat) : Nat := s.rf (rTileHealth j) 1 0
def State.setTileState (s : State) (j st logical : Nat) : State :=
  (s.setRf (rTileHealth j) 1 0 st).setRf (rTileHealth j) 7 2 logical

/-- SPARE tiles of a die that no swap has reserved, lowest first (R368, R378). -/
def State.spares (s : State) (die : Nat) : List Nat :=
  (rangeFrom (52 * die) 52).filter (fun j => s.tileState j == 1 && !s.tiles.swaps.any (fun w => w.2.2.1 == j))

/-- Is a tile of the die in state SPARE, one that a swap has taken among them (R379, R381)? -/
def State.hasSpare (s : State) (die : Nat) : Bool := (rangeFrom (52 * die) 52).any (fun j => s.tileState j == 1)

/-- A die without a SPARE tile is reported for replacement (R379). -/
def State.checkSpares (s : State) (die : Nat) : State :=
  if s.hasSpare die then s else s.replacement 3 die

/-- A swap of a logical tile begins (R378): admission to it is held until SPARE_SWAP_DONE. -/
def State.startSwap (s : State) (t src dst : Nat) (test : Bool) : State :=
  { s with tiles := { s.tiles with swaps := s.tiles.swaps ++ [(t, src, dst, test)] } }

/-- Does the die test a tile, or take one out for a test (R380)? -/
def State.dieTests (s : State) (die : Nat) : Bool :=
  s.tiles.testing.any (fun t => t.1 / 52 == die) || s.tiles.swaps.any (fun w => w.2.2.2 && w.1 / 48 == die)

/-- Does a run occupy a logical tile: by its unit, or as the odd tile of a pair (R373)? -/
def State.occupies (s : State) (r : Run) (t : Nat) : Bool :=
  match r.unit.tile with
  | some u => u == t || (u + 1 == t && s.rb (rTwinCtl r.cmd.dom) 0)
  | none => false

/-- A test-pending ACTIVE tile is swapped with the lowest SPARE and leaves for its test (R381); `forced` counts a drain. -/
def State.testSwap (s : State) (j : Nat) (forced : Bool) : State :=
  match s.spares (j / 52) with
  | [] => s
  | k :: _ =>
    let t := 48 * (j / 52) + s.rf (rTileHealth j) 7 2
    if s.dieTests (j / 52) then s
    else
      let s := { s with tiles := { s.tiles with drains := s.tiles.drains.filter (· != t) } }
      (if forced then s.bump cTestForced 1 else s).startSwap t j k true

/-- Drained tiles on which nothing runs any more are swapped (R381 step 3). -/
def State.drainSwaps (s : State) : State :=
  s.tiles.drains.foldl (fun s t => if s.runs.any (fun r => s.occupies r t) then s else s.testSwap (s.physOf t) true) s

/-- The health table and the log hear of a tile that is out of service (R375, R382, R443). -/
def State.logTile (s : State) (j : Nat) (data : List Byte) : State :=
  (s.markHealth .tile (j / 52) (j % 52)).logRec 4 ([BitVec.ofNat 8 (j / 52), BitVec.ofNat 8 (j % 52)] ++ data)

/-- A swap of the die ends without effect: a tile that was leaving for its test is test-pending as before (R381). -/
def State.dropSwap (s : State) (w : Nat × Nat × Nat × Bool) : State :=
  { s with tiles := { s.tiles with swaps := s.tiles.swaps.erase w } }

/-- A logical tile whose physical tile is quarantined goes to a spare (R378, R379): to `pref` while that is SPARE, else to the
lowest-numbered SPARE, even where a test has reserved it; that test's swap takes the next SPARE or is put off. With no SPARE the
logical tile is OUT and its owner faults. -/
def State.replaceTile (s : State) (t j pref : Nat) : State :=
  let die := j / 52
  let ok := (rangeFrom (52 * die) 52).filter (fun k => s.tileState k == 1 && !s.tiles.swaps.any (fun w => w.2.2.1 == k && !w.2.2.2))
  match (if ok.contains pref then some pref else ok.head?) with
  | some k =>
    let lost := s.tiles.swaps.filter (fun w => w.2.2.1 == k)
    let s := (lost.foldl State.dropSwap s).startSwap t j k false
    lost.foldl (fun s w => match s.spares die with | m :: _ => s.startSwap w.1 w.2.1 m true | [] => s) s
  | none =>
    let s := s.setRb (rTileMap t) 8 true
    s.contained (s.tileOwner t) { cls := 2, src := 18, mkind := 1, mid := t / 48 + t % 48 * 2 + j % 52 * 2 ^ 7, acc := 6 } []

/-- The tile of the next replay of a run (R368, Table SE-2): the lowest SPARE of the die that no swap has reserved and on which no
execution has detected. A DMA engine of the fabric die has none: it repeats the execution itself. -/
def State.replayFor (s : State) (r : Run) (seen : List Nat) : Option Nat :=
  if r.unit.tile.isNone then none else ((s.spares (seen.headD 0 / 52)).filter (fun j => !seen.contains j)).head?

/-- The physical tile of the replay in course: the one chosen for it, else the first that detected (R368). -/
def Run.replayOn (r : Run) : Nat := r.replayTile.getD (r.detTiles.headD 0)

/-- Replays that were to run on a tile that has left service take the next one (R368, R375). -/
def State.dropReplay (s : State) (j : Nat) : State :=
  s.setRuns (s.runs.map (fun r =>
    if r.st == .detected && r.unit.tile.isSome && r.replayOn == j then { r with replayTile := s.replayFor r r.detTiles } else r))

/-- A physical tile is quarantined (R375, R378, R379), for good: an ACTIVE one is swapped out, one that is already leaving for a test
leaves for good, and a swap that was to bring it into service takes another spare. -/
def State.quarantine (s : State) (j pref : Nat) (data : List Byte) : State :=
  let was := s.tileState j
  let t := 48 * (j / 52) + s.rf (rTileHealth j) 7 2
  let leaving := s.tiles.swaps.any (fun w => w.2.1 == j)
  let into := s.tiles.swaps.filter (fun w => w.2.2.1 == j)
  let s := (s.logTile j data).setTileState j 3 0
  let s := { s with tiles := { s.tiles with
    swaps := s.tiles.swaps.map (fun (w : Nat × Nat × Nat × Bool) => if w.2.1 == j then (w.1, w.2.1, w.2.2.1, false) else w)
    testing := s.tiles.testing.filter (fun (u : Nat × Nat × Bool) => u.1 != j) } }
  let s := if was = 0 ∧ !leaving then s.replaceTile t j pref else s
  let s := into.foldl (fun s w =>
    let s := s.dropSwap w
    if w.2.2.2 then (match s.spares (j / 52) with | k :: _ => s.startSwap w.1 w.2.1 k true | [] => s)
    else s.replaceTile w.1 w.2.1 pref) s
  (s.dropReplay j).checkSpares (j / 52)

/-- Events of a physical tile within `QUAR_WINDOW` of now (R375, R476). -/
def State.recent (s : State) (j : Nat) : List Nat :=
  (Tab.get listReset s.tiles.events j).filter (fun t => decide (s.now - t ≤ s.rf rSeCtl 9 0 * 3600000000000))

/-- `EVENTS` of every tile that has had one, as time passes (R476). -/
def State.countEvents (s : State) : State :=
  s.tiles.events.foldl (fun t e => t.setRf (rTileHealth e.1) 9 8 (min (s.recent e.1).length 3)) s

/-- A compute (0) or checker (1) event against a physical tile (R375): three within `QUAR_WINDOW` quarantine it. -/
def State.tileEvent (s : State) (j kind pref : Nat) : State :=
  let l := s.now :: s.recent j
  let s := { s with tiles := { s.tiles with events := Tab.set listReset s.tiles.events j (l.take 3) } }
  let s := s.setReg (rTileEvent j 2) (s.reg (rTileEvent j 1))
  let s := s.setReg (rTileEvent j 1) (s.reg (rTileEvent j 0))
  let s := s.setReg (rTileEvent j 0) (BitVec.ofNat 64 (s.frameNo + kind * 2 ^ 48 + 2 ^ 63))
  let s := s.setRf (rTileHealth j) 9 8 (min l.length 3)
  if decide (3 ≤ l.length) && (s.tileState j != 3) then
    s.quarantine j pref ((List.range 3).flatMap (fun n => leBytes 8 (s.reg (rTileEvent j n)).toNat))
  else s

/-- SPARE_SWAP_DONE (R378): the logical tile maps to the spare; the tile it left goes to its test, or stays quarantined. -/
def execSpareSwapDone (die tile : Nat) (s : State) : Host.Outcome State Fault Refusal :=
  let t := 48 * die + tile
  match s.tiles.swaps.find? (fun w => w.1 == t) with
  | none => .next s
  | some w =>
    let s := { s with tiles := { s.tiles with swaps := s.tiles.swaps.erase w } }
    let s := (s.setRf (rTileMap t) 5 0 (w.2.2.1 % 52)).setTileState w.2.2.1 0 (t % 48)
    let s := if w.2.2.2 then
        { s.setTileState w.2.1 2 0 with
          tiles := { s.tiles with testing := s.tiles.testing ++ [(w.2.1, 0, false)],
                                  tpend := s.tiles.tpend.filter (fun p => p.1 != w.2.1) } }
      else s
    .next (s.checkSpares die)

/-! ### One execution -/

/-- The engine of an opcode. -/
def X.engine (x : X) : X :=
  let o := x.run.cmd.opcode
  if o = oTransfer then x.transfer.residue
  else if o = oConvert then x.convert.residue
  else if o = oVclear then x.vclear.residue
  else if o = oHmul then x.hmul
  else if o = oSmul then x.smul
  else if o = oGather then x.gather
  else if o = oScatter then x.scatter
  else if o = oMerge then x.merge
  else if o = oCompact then x.compact
  else if o = oFunc then x.func.residue
  else if o = oRoute then x.route
  else if o = oCombine then x.combine
  else x

/-- Is a written operand marked ALIAS (R203-R205)? -/
def Run.aliased (r : Run) : Bool := r.cmd.aliased r.descs

/-- An access of an execution that fails (R223, R120): counted, and the job's work is stopped. -/
def State.execFault (s : State) (r : Run) (st : Stop) : State :=
  let s := if st.src = 17 then s.bump (cXlateFault r.cmd.dom) 1 else s
  s.contained r.cmd.dom { s.runEv r st.src st.detail with addr := st.addr, akind := st.akind, acc := st.acc } [(r.cmd.id, st.cause)]

/-- The run has executed with a result. -/
def State.executed (s : State) (id : Nat) (res : Res) (rep : Bool) : State :=
  s.modRun id (fun r => { r with st := .executed, res, replayed := rep })

/-- The block of a transfer to an answer queue is on its way (R169, R170). -/
def State.answerSent (s : State) (r : Run) : State :=
  let d := dAt r.descs 1
  if r.cmd.opcode = oTransfer ∧ d.space = 3 then
    let src := s.physOf (tileOf r.unit.tile d.aux).1
    s.modCtx (d.base % 64) (fun x => { x with inflight := x.inflight ++ [⟨r.snap.getD 1 0, src, r.cmd.id, r.snap.getD 2 0 == 1⟩] })
  else s

/-- Keep the outcome of an ended execution: rejected with nothing written, faulted, stopped with its destination
unspecified (R129, R177), stopped on a poisoned block met in part (R249), or its writes. -/
def X.keep (x : X) (rep : Bool) : State :=
  let r := x.run
  let id := r.cmd.id
  match x.stop with
  | some st => if st.src = 0 then x.s.executed id { status := 1, cause := st.cause } rep else x.s.execFault r st
  | none =>
    let base : Res := { aliased := r.aliased, poison := x.pw.length, result := x.result, pAt := x.pAt.getD (0, 0, 0) }
    if x.cause ≠ 0 then
      let s := (x.s.discard r).executed id { base with status := 3, cause := x.cause } rep
      if r.cmd.opcode = oCombine then s.advanceEpoch r.cmd.ctxNo else s
    else
      let m := x.mergeReads
      let pp := m.partialPoison
      if pp.isEmpty then
        let y := x.flush
        let n := y.pw.length
        let s := y.s.executed id { base with status := if n = 0 then 0 else 2, flags := x.flags, poison := n, offered := x.offered,
                                             done := x.done, dropped := x.dropped } rep
        (s.modRun id (fun q => { q with snap := x.run.snap, cont := x.run.cont })).answerSent r
      else
        (m.s.discard r).executed id
          { base with status := 2, result := 0, poison := x.pw.length + 32 * pp.length,
                      pAt := x.pAt.getD (256 * pp.headD 0, 2, 2) } rep

/-- One nibble of a byte takes a free value; a poisoned byte stays poisoned. -/
def State.freeNibble (s : State) (l n : Nat) : State :=
  match s.seeLocs [l] with
  | [(_, v, false)] => let f := s.freeByte; f.2.putLocs [(l, BitVec.ofNat 8 (setFld (v.setWidth 64) (4 * n + 3) (4 * n) f.1.toNat).toNat, false)]
  | _ => s

/-- What a detected execution has written takes free values (R111, R368): of INT4 halves only the nibbles written. The bytes that the
command itself reads as inputs stay as they stood, since the Cocoon has no copy of them and its replay writes the same bits (R274, R275;
log entry 110). -/
def X.undo (x : X) : State :=
  let ins := x.run.locsOf (· == .rd)
  let half := x.half.filterMap (fun h => (x.locOf h.1.1 h.1.2).map (fun l => (l, h.2.1)))
  let ls := (x.bytes.map (·.1)).filter (fun l => !ins.contains l && !half.any (fun h => h.1 == l))
  (half.filter (fun h => !ins.contains h.1)).foldl (fun s h => s.freeNibble h.1 h.2) (x.s.freeLocs ls)

/-- A detection: outputs and flags are discarded, what the Cocoon retains is kept, and the replay begins with its tokens
(R368, R369). `phys` is the detecting tile; `other` the odd tile's digest where both passed with different ones. -/
def X.detect (x : X) (phys digest : Nat) (other : Option Nat) : State :=
  let r := x.run
  let u := x.undo
  (u.modRun r.cmd.id (fun q =>
    { q with st := .detected, kept := r.kept, digest, digestTwin := other.getD 0, twinDiffer := other.isSome,
             detTiles := [phys], detects := 1, replays := 0, replayTile := u.replayFor r [phys],
             crossed := 0, throttled := false })).grantReplay r.cmd.tokens

/-- Errors of a stage that change a value. -/
def Env.strikes (e : Env) (stage : Nat) : Nat := (e.faults.filter (fun f => decide (f.stage = stage) && f.pat != 0#32)).length

/-- A residue mismatch in the frame scheduler or the Damper as it serves the command (R366): the operation is repeated once, which
changes nothing; a second mismatch is Fatal. -/
def State.schedResidue (s : State) (r : Run) (e : Env) : Option State :=
  if 2 ≤ Env.strikes e 7 then some (s.fatal { s.runEv { r with unit := .sched } 50 0 with cls := 3, acc := 6 }) else none

/-- The same in the network interface or the update sequencer, beside the frame scheduler's. -/
def State.fdResidue (s : State) (r : Run) (e : Env) : Option State :=
  if 2 ≤ Env.strikes e 3 then some (s.fatal { s.runEv r 50 0 with cls := 3, acc := 6 }) else s.schedResidue r e

/-- No execution's outputs are kept (Table SE-2, R374). -/
def State.unresolved (s : State) (r : Run) : State :=
  (s.bump (cSeUnresolved r.cmd.dom) 1).contained r.cmd.dom { s.runEv r 18 0 with acc := 6 } []

/-- The first execution from a prepared context, and in twin mode that of the odd tile, which writes nothing (R373, R374): kept where
each passes and the digests agree; else the detection. Both use their arrays and count their unchecked sums;
an HMUL that stops on MASK leaves its array's idle count as it was (log entry 127). Where both detect, the tile of the queue is charged (log
entry 135). -/
def X.runBoth (x0 : X) : State :=
  let r := x0.run
  let x := x0.engine
  if x.stop.isSome || x.cause != 0 then x.keep false
  else
    let x := { x with s := x.s.usedBy r }
    match r.unit.tile, x0.s.rb (rTwinCtl r.cmd.dom) 0 with
    | some t, true =>
      let y := ({ x0 with e := { x0.e with faults := x0.e.twinFaults } } : X).engine
      let x := { x with s := x.s.bump cSeUnchecked ((y.s.reg cSeUnchecked).toNat - (x0.s.reg cSeUnchecked).toNat) }
      if x.det then x.detect (x.s.physOf t) x.digest none
      else if y.det then x.detect (x.s.physOf (t + 1)) y.digest none
      else if x.digest ≠ y.digest then
        (match x.s.replayFor r [x.s.physOf t] with
         | some _ => x.detect (x.s.physOf t) x.digest (some y.digest)
         | none => x.s.unresolved r)
      else x.keep false
    | some t, false => if x.det then x.detect (x.s.physOf t) x.digest none else x.keep false
    | none, _ => if x.det then x.detect 0 x.digest none else x.keep false

/-- The execution of an admitted run. The Cocoon has its copies from before what struck since (R248, R274). -/
def State.entering (s : State) (r : Run) (e : Env) : X :=
  let q := if r.cmd.opcode = oCombine then r else { r with kept := s.retain r }
  { s := s.upsets e, e, run := q, tile := r.unit.tile }

def State.runOnce (s : State) (r : Run) (e : Env) : State := (s.entering r e).runBoth

/-- A consumer takes the stream bytes that have come, up to those it reads; their ring space is free at once (R359, R360). -/
def State.takeStream (s : State) (id : Nat) (n : Nat × Nat) : State :=
  match s.findRun id with
  | none => s
  | some r =>
    let k := min (r.wants n) (s.streamAvail n.1)
    let x : X := { s, e := {}, run := r, tile := r.unit.tile }
    let y := (List.range k).foldl (fun (a : X × List (Nat × Byte × Bool)) i =>
      let b := a.1.tileByte (s.streamKey n.1 i)
      (b.1, (n.1, b.2.1, b.2.2) :: a.2)) (x, [])
    if k = 0 then s
    else (y.1.s.modRun id (fun r => { r with taken := r.taken ++ y.2.reverse })).consumeStream n.1 k

/-- An execution row: it acts on an admitted run of its opcode, once the stream bytes it reads have come (R359). -/
def State.execRun (s : State) (id op : Nat) (e : Env) : State :=
  match s.findRun id with
  | some r =>
    if r.cmd.opcode = op ∧ r.st = .admitted ∧ !s.flt.fatal then
      let s := s.seeSram (.queue id)
      let s := if op = oRoute then s.seeSram (.context r.cmd.ctxNo) else s
      let s := r.streams.foldl (fun s n => s.takeStream id n) s
      match s.findRun id with
      | some r => if r.streams.any (fun n => r.wants n != 0) then s else (s.schedResidue r e).getD (s.runOnce r e)
      | none => s
    else s
  | none => s

/-! ### Replay -/

/-- Does the array of a physical tile count as idle, so that kindling mode ramps it (R52)? -/
def State.coldArray (s : State) (p : Nat) : Bool :=
  let b := Tab.get natReset s.pipe.arrayBusy p
  !s.frame.legacy && (b == 0 || decide (1280 ≤ (s.now - (b - 1)) * s.zFreq (zoneOfPhys p)))

/-- A replay's execution on physical tile `j` (R275, R369): what the Cocoon retains is put back, an input that is only read is read
where it lies. An array that ran the execution before it is not idle; another one leaves idle through the ramp (R52). -/
def State.replayX (s : State) (r : Run) (j : Nat) (e : Env) : X :=
  let hm := r.cmd.opcode = oHmul
  let q := if hm then { r with snap := b2n (!r.detTiles.contains j && s.coldArray j) :: r.snap.drop 1 } else r
  let x := ({ s := s.putLocs r.kept, e, run := { q with kept := [] }, tile := r.unit.tile } : X).engine
  { x with s := if hm then x.s.arrayUsed j else x.s }

/-- A replay's outputs are kept: a Replayed event (R371). -/
def X.keepReplay (x : X) (self : Bool) : State :=
  let s := x.keep true
  (s.bump (if self then cSeSelfReplay else cSeReplay) 1).minor { s.runEv x.run 6 0 with acc := 6 }

/-- The second detection of Table SE-2: replay 2 begins, on the next tile that qualifies or on A. -/
def X.detectAgain (x : X) (r : Run) (a b : Nat) : State :=
  let u := x.undo
  (u.modRun r.cmd.id (fun q =>
    { q with replays := 1, detects := 2, detTiles := [a, b], replayTile := u.replayFor r [a, b],
             crossed := 0 })).grantReplay r.cmd.tokens

/-- Has a replay no tile to run on: after digests that differ none qualified (R374), or its tile has been quarantined since and none
qualifies in its place (R375; log entry 126)? -/
def State.noReplay (s : State) (r : Run) : Bool :=
  r.unit.tile.isSome && ((r.twinDiffer && r.replayTile.isNone) || s.tileState r.replayOn == 3)

/-- The end of the replay in course (R368-R371, R374, Table SE-2). -/
def State.replayEnds (s : State) (r : Run) (e : Env) : State :=
  let a := r.detTiles.headD 0
  let b := r.replayOn
  let x := (s.upsets e).replayX r b e
  if s.noReplay r then (s.upsets e).unresolved r
  else if r.twinDiffer then
    let odd := s.physOf ((r.unit.tile.getD 0) + 1)
    if x.det then x.s.unresolved r
    else if x.digest = r.digest then (x.keepReplay false).tileEvent odd 0 b
    else if x.digest = r.digestTwin then (x.keepReplay false).tileEvent a 0 b
    else x.s.unresolved r
  else if r.replays = 0 then
    if r.replayTile.isNone then (if x.det then x.s.unresolved r else x.keepReplay true)
    else if x.det then x.detectAgain r a b
    else (x.keepReplay false).tileEvent a (if x.digest = r.digest then 1 else 0) b
  else if x.det then x.s.unresolved r
  else r.detTiles.foldl (fun s t => if t = b then s else s.tileEvent t 0 b) (x.keepReplay false)

/-- The stacks whose Grate units a VCLEAR asks (R227, R234). -/
def Run.clearStacks (r : Run) : List Nat := ((r.pages.filter (fun p => p.present && !p.host)).map (fun p => p.addr / 2 ^ 36)).eraseDups

/-- A VCLEAR's clears go through the FIFOs of its stacks, those of its replay as well; what another command does needs none (R234). -/
def State.viaGrate (s : State) (r : Run) (f : State → State) : State :=
  if r.cmd.opcode = oVclear then s.atGrate (.job r.cmd.id) r.clearStacks f else f s

/-- REPLAY: the Cocoon's copies are read (Table DI-5), and the replay in course ends. -/
def execReplay (id : Nat) (e : Env) (s0 : State) : Host.Outcome State Fault Refusal :=
  match s0.findRun id with
  | none => .next s0
  | some r0 =>
    if r0.st ≠ .detected ∨ s0.flt.fatal then .next s0
    else
      let s := (s0.seeSram (.queue id)).seeSram (.cocoon id)
      match s.findRun id with
      | none => .next s
      | some r =>
        if r.badCocoon then .next (s.contained r.cmd.dom (s.runEv r 28 0) [])
        else .next (s.viaGrate r (fun s => (s.schedResidue r e).getD (s.replayEnds r e)))

/-! ### COMBINE -/

/-- Blocks of the batch that wait in the queue and have not been taken are taken, oldest first, until `ASSIGNED` rows are applied
(R172). -/
def X.takeBlocks (x : X) (m : CmbSet) : X :=
  let c := x.run.cmd.ctxNo
  let t := x.s.aqTile c
  let over' (x : X) : Bool :=
    let p := m.progress x.run.cmd (dAt x.run.descs 0) x.run.blocks
    p.failed || decide (m.assigned ≤ p.done.length)
  ((x.s.ctx c).queue.filter (fun a => !x.run.blocks.any (fun b => b.1.slot == a.slot && b.1.id == a.id))).foldl (fun x a =>
    if over' x then x
    else
      let h := x.s.tileBytesAt t (x.s.aqOff c a.slot) 32
      let hdr := leNat h.2.1
      if bits hdr 31 16 = bits m.h 31 16 then
        let n := 32 + bits hdr 54 48 * bits hdr 93 80 * (if bit hdr 55 then 2 else 4)
        let r := (List.range n).foldl (fun (q : X × List Byte × Bool) i =>
          let b := q.1.tileByte (t * tileBytes + x.s.aqOff c a.slot + i); (b.1, b.2.1 :: q.2.1, q.2.2 || b.2.2)) (x, [], false)
        { r.1 with run := { x.run with blocks := x.run.blocks ++ [({ a with poison := r.2.2 }, r.2.1.reverse, false)] } }
      else x) x

/-- The execution of a COMBINE that ends: it adds the rows of every block taken into Y as its set-up found it, and counts the
poisoned words met on the way. -/
def State.combineX (s : State) (r : Run) (e : Env) : X :=
  { s := s.putLocs r.kept, e, run := r, tile := r.unit.tile, pw := rangeFrom (2 ^ 60) r.res.poison
    pAt := if r.res.poison = 0 then none else some r.res.pAt }

/-- The set-up of a COMBINE: its run notes the rows that its batch covers, and the Cocoon takes what Y holds there (R172, R178). -/
def State.setUpCombine (s : State) (r : Run) (m : CmbSet) : Run :=
  if r.setUp then r
  else
    let r := { r with setUp := true, snap := r.snap.getD 0 0 :: m.covered (bits m.h 43 40) }
    { r with kept := s.retain r }

/-- Is a COMBINE at its end: every assigned row applied, or a row that does not match (R172, R173)? -/
def CProg.ended (p : CProg) (m : CmbSet) : Bool := p.failed || decide (m.assigned ≤ p.done.length)

/-- What a COMBINE row takes: the blocks that have come, in order; the credits of finished blocks return (R169, R172). Answers the state,
the run with its blocks, and how far their rows have got. -/
def State.combineTakes (s : State) (r : Run) (m : CmbSet) (e : Env) : State × Run × CProg :=
  let c := r.cmd.ctxNo
  let tk := ({ s, e, run := s.setUpCombine r m, tile := r.unit.tile } : X).takeBlocks m
  let p := m.progress r.cmd (dAt r.descs 0) tk.run.blocks
  let over' (b : Nat) : Bool := p.finished tk.run.blocks b || (p.ended m && !p.failed)
  let back := (tk.run.blocks.zipIdx).filter (fun b => !b.1.2.2 && over' b.2)
  let blocks := (tk.run.blocks.zipIdx).map (fun b => (b.1.1, b.1.2.1, b.1.2.2 || over' b.2))
  let u := back.foldl (fun (s : State) b => (s.modCtx c (fun k => { k with queue := k.queue.filter (fun a => a.slot != b.1.1.slot) })).creditBack c) tk.s
  let q := { tk.run with blocks, res := { r.res with poison := r.res.poison + tk.pw.length, pAt := tk.pAt.getD r.res.pAt } }
  (u.modRun r.cmd.id (fun _ => q), q, p)

/-- A COMBINE row: at first the set-up checks (R172); then it takes what has come, returns the credits of finished blocks,
and ends when every assigned row is applied, when a row does not match, or when nothing more can come (R173-R177). Its word
is formed before the epoch advance of its own stop (log entry 120). -/
def State.combineRun (s0 : State) (r : Run) (e : Env) : State :=
  let s := s0.upsets e
  let id := r.cmd.id
  let c := r.cmd.ctxNo
  let m := ({ s, e, run := r, tile := r.unit.tile } : X).combineSet.2
  let bad := s.combineHeader r m
  let stale := (s.ctx c).stale - r.snap.getD 0 0
  let none' := cmbWord 0 0 stale
  if m.hbad then s.runOnce r {}
  else if !r.setUp && bad != 0 then s.executed id { status := 1, cause := bad, result := none' } false
  else if m.assigned = 0 then s.executed id { result := none', aliased := r.aliased } false
  else if m.bad then s.runOnce r {}
  else
    let k := s.combineTakes r m e
    if k.2.2.ended m then (k.1.combineX k.2.1 e).runBoth
    else
      let x := k.1.ctx c
      if x.credits = 0 ∧ x.held.isEmpty ∧ x.inflight.isEmpty then
        ((k.1.discard k.2.1).executed id
          { status := 3, cause := 13, aliased := r.aliased, result := cmbWord k.2.2.done.length k.2.1.blocks.length stale } false).advanceEpoch c
      else k.1

/-! ### The execution rows -/

def execTransfer (id : Nat) (e : Env) (s : State) : Host.Outcome State Fault Refusal := .next (s.execRun id oTransfer e)
def execConvert (id : Nat) (e : Env) (s : State) : Host.Outcome State Fault Refusal := .next (s.execRun id oConvert e)

def execVclear (id : Nat) (e : Env) (s : State) : Host.Outcome State Fault Refusal :=
  match s.findRun id with
  | some r =>
    .next (if r.cmd.opcode = oVclear ∧ r.st = .admitted ∧ !s.flt.fatal then
        s.viaGrate r (fun t => t.execRun id oVclear e)
      else s)
  | none => .next s
def execHmul (id : Nat) (e : Env) (s : State) : Host.Outcome State Fault Refusal := .next (s.execRun id oHmul e)
def execSmul (id : Nat) (e : Env) (s : State) : Host.Outcome State Fault Refusal := .next (s.execRun id oSmul e)
def execGather (id : Nat) (e : Env) (s : State) : Host.Outcome State Fault Refusal := .next (s.execRun id oGather e)
def execScatter (id : Nat) (e : Env) (s : State) : Host.Outcome State Fault Refusal := .next (s.execRun id oScatter e)
def execMerge (id : Nat) (e : Env) (s : State) : Host.Outcome State Fault Refusal := .next (s.execRun id oMerge e)
def execCompact (id : Nat) (e : Env) (s : State) : Host.Outcome State Fault Refusal := .next (s.execRun id oCompact e)
def execFunc (id : Nat) (e : Env) (s : State) : Host.Outcome State Fault Refusal := .next (s.execRun id oFunc e)
def execRoute (id : Nat) (e : Env) (s : State) : Host.Outcome State Fault Refusal := .next (s.execRun id oRoute e)

/-- COMBINE: what it reads from receive streams comes first (R359). -/
def execCombine (id : Nat) (e : Env) (s : State) : Host.Outcome State Fault Refusal :=
  match s.findRun id with
  | some r0 =>
    if r0.cmd.opcode = oCombine ∧ r0.st = .admitted ∧ !s.flt.fatal then
      let s := (s.seeSram (.queue id)).seeSram (.context r0.cmd.ctxNo)
      let s := r0.streams.foldl (fun s n => s.takeStream id n) s
      match s.findRun id with
      | some r => .next (if r.streams.any (fun n => r.wants n != 0) then s else (s.schedResidue r e).getD (s.combineRun r e))
      | none => .next s
    else .next s
  | none => .next s

end Sys2Proof.Machine
end

