-- ==== Sys2Proof/Machine/Xlate.lean ====
section
/-!
DEFINITION. Translation (R215-R222): page-table entries, the walk of one virtual address, the snapshot of a command.
-/
namespace Sys2Proof.Machine

/-- How a walk ends for one address (R220, Table MS-5): the entry kept, a malformed entry, a poisoned word (with its
DPA). -/
inductive Walk where
  | entry (p : Page)
  | malformed (dpa : Nat)
  | poisoned (dpa : Nat)
deriving DecidableEq, Repr

/-- Bits of a VA below a level's index (Table MS-3). -/
def levelShift (l : Nat) : Nat := if l = 3 then 39 else if l = 2 then 30 else 21

/-- The index of a VA at a level (Table MS-3). -/
def levelIndex (l va : Nat) : Nat := if l = 3 then va / 2 ^ 39 % 8192 else va / 2 ^ levelShift l % 512

/-- `CHECK` of an entry for a domain (Table MS-4). -/
def pteCheck (w d : Nat) : Nat :=
  (List.range 7).foldl (fun a i => a ^^^ (w / 2 ^ (8 * i) % 256)) (d ^^^ 0xA5)

/-- `ADDR` of an entry as an address. -/
def pteAddr (w : Nat) : Nat := bits w 51 12 * 4096

/-- Is a present entry well formed at a level (R219)? -/
def pteOk (l w d : Nat) : Bool :=
  let leaf := bit w 2
  let size := if leaf then 2 ^ levelShift l else 4096
  bits w 63 56 == pteCheck w d && bits w 11 4 == 0 && bits w 55 52 == 0 &&
  !(l == 3 && leaf) && !(l == 1 && !leaf) && (leaf || (!bit w 1 && !bit w 3)) &&
  pteAddr w % size == 0 && (bit w 3 || decide (pteAddr w + size ≤ stackEnd))

/-- Read an aligned 8-byte word of stack memory for a page-table walk, which no unit of Table FC-3 makes: its value, or poison. -/
def State.readStackWord (s : State) (e : Env) (dpa : Nat) : State × Nat × Bool :=
  let r := s.readBlk e (dpa / 256) { acc := 5 }
  let c := (crossRead e (dpa / 256)).2
  if r.2 then (r.1, 0, true)
  else (r.1, leNat ((List.range 8).map (fun i => r.1.dataByte (dpa + i) ^^^ c.err ((dpa + i) % 256))), false)

/-- Walk one VA from a table at a level down (R217-R220). -/
def State.walkFrom (s : State) (e : Env) (d va : Nat) : Nat → Nat → State × Walk
  | 0, _ => (s, .entry ⟨0, 0, false, false, false, 0⟩)
  | l + 1, table =>
    let at' := table + 8 * levelIndex (l + 1) va
    let r := s.readStackWord e at'
    let sz := 2 ^ levelShift (l + 1)
    let base := va / sz * sz
    if r.2.2 then (r.1, .poisoned at')
    else
      let w := r.2.1
      if !bit w 0 then (r.1, .entry ⟨base, sz, false, false, false, 0⟩)
      else if !pteOk (l + 1) w d then (r.1, .malformed at')
      else if bit w 2 then (r.1, .entry ⟨base, sz, true, bit w 1, bit w 3, pteAddr w⟩)
      else State.walkFrom r.1 e d va l (pteAddr w)

/-- Walk one VA of a domain. -/
def State.walkVa (s : State) (e : Env) (d va : Nat) : State × Walk := s.walkFrom e d va 3 (s.reg (rPtRoot d)).toNat

/-- The outcome of a command's walk (Table MS-5): its snapshot; rejected by R221; an event with its DPA. -/
inductive Snap where
  | ok (ps : List Page)
  | reject
  | malformed (dpa : Nat)
  | poisoned (dpa : Nat)
deriving DecidableEq, Repr

/-- Walk the pages from `va` to `hi` (exclusive), keeping at most `lim` distinct entries (R221, R284). -/
def State.walkRange (s : State) (e : Env) (d : Nat) (hostOk : Bool) (lim hi : Nat) : Nat → Nat → List Page → State × Snap
  | 0, _, _ => (s, .reject)
  | fuel + 1, va, ps =>
    if hi ≤ va then (s, .ok ps)
    else
      match pageOf ps va with
      | some p => State.walkRange s e d hostOk lim hi fuel (p.va + p.size) ps
      | none =>
        let r := s.walkVa e d va
        match r.2 with
        | .malformed a => (r.1, .malformed a)
        | .poisoned a => (r.1, .poisoned a)
        | .entry p =>
          if (p.host && !hostOk) || decide (lim ≤ ps.length) then (r.1, .reject)
          else State.walkRange r.1 e d hostOk lim hi fuel (p.va + p.size) (ps ++ [p])

/-- Walk a list of byte ranges (first, length) (R220, R221): the first failure that is met, in operand order and by ascending VA, is the
outcome (log entry 130). -/
def State.walkAll (s : State) (e : Env) (d : Nat) (hostOk : Bool) (lim : Nat) : List (Int × Int) → List Page → State × Snap
  | [], ps => (s, .ok ps)
  | (a, n) :: rs, ps =>
    if n ≤ 0 then State.walkAll s e d hostOk lim rs ps
    else if a < 0 ∨ (2 ^ 52 : Int) < a + n then (s, .reject)
    else
      let r := s.walkRange e d hostOk lim (a + n).toNat (lim + 2) a.toNat ps
      match r.2 with
      | .ok ps => State.walkAll r.1 e d hostOk lim rs ps
      | o => (r.1, o)

/-- The byte ranges of a descriptor in its space: elements, and the area at `AUX_BASE` (R208); none where no element is stored (log entry
129). -/
def Desc.ranges (d : Desc) (base aux : Int) : List (Int × Int) :=
  [d.footprint base, (aux, if d.stCount = 0 then 0 else (d.auxLen : Int))]

/-- The virtual ranges of a STACK descriptor. -/
def Desc.vranges (d : Desc) : List (Int × Int) := if d.space = 0 then d.ranges d.base d.aux else []

/-- Do two byte ranges meet? -/
def meets (a b : Int × Int) : Bool := decide (0 < a.2 ∧ 0 < b.2 ∧ a.1 < b.1 + b.2 ∧ b.1 < a.1 + a.2)

/-- Tile-store ranges of a TILE descriptor, or of an ANSWER descriptor's header, as (tile, range). -/
def Desc.tranges (d : Desc) (self : Option Nat) : List (Nat × (Int × Int)) :=
  if d.space = 1 then
    let b := tileOf self d.base
    let a := tileOf self d.aux
    [(b.1, d.footprint b.2), (a.1, ((a.2 : Int), if d.stCount = 0 then 0 else (d.auxLen : Int)))]
  else if d.space = 3 then
    let a := tileOf self d.aux
    [(a.1, ((a.2 : Int), 32))]
  else []

/-- The tile-store ranges of a descriptor's footprint: the header of an ANSWER descriptor is no part of it (R208). -/
def Desc.granges (d : Desc) (self : Option Nat) : List (Nat × (Int × Int)) := if d.space = 3 then [] else d.tranges self

/-- Footprints of two descriptors meet in the same tile store or virtual range (R208). -/
def Desc.overlaps (a b : Desc) (self : Option Nat) : Bool :=
  a.vranges.any (fun x => b.vranges.any (fun y => meets x y)) ||
  (a.granges self).any (fun x => (b.granges self).any (fun y => x.1 == y.1 && meets x.2 y.2))

end Sys2Proof.Machine
end

