-- ==== Sys2Proof/Machine/Update.lean ====
section
/-!
DEFINITION. Parameter update beside memory (11_update_engine): the parameter map at enable (R283-R287), reduced blocks to
micro-commands (R289-R293), the Grate units (R302-R312), schedule records and recipe runs (R294-R296, R313-R319).
-/
namespace Sys2Proof.Machine

def mapReset (_ : Nat) : Option PMap := none
def bytesReset (_ : Nat) : List Byte := []

def State.setUpd (s : State) (u : Upd) : State := { s with upd := u }

/-! ### Parameter map -/

/-- Decode a region entry (Table UE-2). -/
def regionOf (w : Nat) : Region :=
  { g0 := bits w 31 0, nb := bits w 63 32, kind := bits w 65 64, states := bits w 68 66, stack := bits w 76 72,
    recipe := bits w 85 80, matN := bits w 95 88, tensor := bits w 127 96, highVa := bits w 179 128, residVa := bits w 243 192,
    stateVa := bits w 307 256, scaleVa := bits w 371 320 }

/-- The reserved fields of a region entry are 0. -/
def regionRsvd (w : Nat) : Bool :=
  [(71, 69), (79, 77), (87, 86), (191, 180), (255, 244), (319, 308), (511, 372)].all (fun p => bits w p.1 p.2 == 0)

/-- The field conditions of Table UE-2 (cause 8). -/
def Region.fieldsOk (r : Region) : Bool :=
  decide (r.kind < 3) && (if r.kind = 2 then r.nb == 0 else decide (0 < r.nb)) &&
  (r.kind == 0 || (r.states == 0 && r.recipe == 0)) && (r.states != 0 || (r.stateVa == 0 && r.scaleVa == 0)) &&
  (if r.kind = 2 then decide (1 ≤ r.matN ∧ r.matN ≤ 128) else r.matN == 0) && (r.kind != 1 || r.residVa == 0) &&
  decide (r.stack < 24)

/-- Alignment (cause 3). -/
def Region.aligned (r : Region) : Bool :=
  let m := if r.kind = 2 then 256 else 64
  r.highVa % m == 0 && r.residVa % m == 0 && r.stateVa % 64 == 0 && r.scaleVa % 4 == 0

/-- The planes of a region as byte ranges (Table UE-3). -/
def Region.planes (r : Region) : List (Int × Int) :=
  let n : Int := 64 * r.nb
  if r.kind = 1 then [(r.highVa, n)]
  else if r.kind = 2 then [(r.highVa, (4 * r.matN * r.matN : Nat)), (r.residVa, (4 * r.matN * r.matN : Nat))]
  else [((r.highVa : Int), n), ((r.residVa : Int), n)] ++
    ((List.range 3).filter (bit r.states)).map (fun p => ((r.stateVa : Int) + n * (p : Nat), n)) ++
    (if r.states = 0 then [] else [((r.scaleVa : Int), ((4 * r.nb : Nat) : Int))])

/-- Regions with blocks are in ascending `G0` with disjoint ranges (cause 2): the first that is not, by index. -/
def orderBad : Nat → Nat → List Region → Option Nat
  | _, _, [] => none
  | i, lo, r :: rs =>
    if r.nb = 0 then orderBad (i + 1) lo rs
    else if r.g0 < lo then some i else orderBad (i + 1) (r.g0 + r.nb) rs

/-- The index of the first region that fails a test. -/
def firstBad (p : Region → Bool) (rs : List Region) : Option Nat := rs.findIdx? (fun r => !p r)

/-- Reading a part of the map (R283): bytes, or a failing cause with whether the walk met a malformed entry. -/
inductive MapRd where
  | ok (bs : List Byte)
  | fail (cause : Nat) (malformed : Bool)
deriving DecidableEq, Repr

/-- Read `n` bytes of a domain at a VA for its map: `pageCause` where a page is absent or in host memory. -/
def State.mapRead (s : State) (e : Env) (d va n pageCause : Nat) : State × MapRd :=
  let w := s.walkAll e d true 16384 [(va, n)] []
  match w.2 with
  | .malformed _ => (w.1, .fail 4 true)
  | .poisoned _ => (w.1, .fail 4 false)
  | .reject => (w.1, .fail pageCause false)
  | .ok ps =>
    if ps.any (fun p => !p.present || p.host) then (w.1, .fail pageCause false)
    else
      let x : X := { s := w.1, e, run := ownRun d ps, tile := none }
      let r := (List.range n).foldl (fun (a : X × List Byte × Bool) i =>
        let b := a.1.byteAt .va 1 (va + i : Nat); (b.1, b.2.1 :: a.2.1, a.2.2 || b.2.2)) (x, [], false)
      if r.2.2 then (r.1.s, .fail 7 false) else (r.1.s, .ok r.2.1.reverse)

/-- Walk the pages of a list of ranges and test each page kept (cause 4): pages of the test's stack, writable if asked. More page
entries than FD holds exceed a limit (R284, cause 6). -/
def State.mapWalk (s : State) (e : Env) (d : Nat) (rs : List (Int × Int)) (ok : Page → Bool) (ps : List Page) :
    State × Nat × Bool × List Page :=
  let w := s.walkAll e d true 65537 rs ps
  match w.2 with
  | .malformed _ => (w.1, 4, true, ps)
  | .poisoned _ => (w.1, 4, false, ps)
  -- past the VA space no page is present; else more entries than FD holds
  | .reject => (w.1, if rs.any (fun r => decide (0 < r.2 ∧ (2 ^ 52 : Int) < r.1 + r.2)) then 4 else 6, false, ps)
  | .ok ps' =>
    let used := ps'.filter (fun p => rs.any (fun r => meets r (p.va, p.size)))
    (w.1, orCause (used.all (fun p => p.present && !p.host && ok p)) 4, false, ps')

/-- The loaded map, or the failure: cause, region index, whether a walk met a malformed entry. -/
inductive MapLoad where
  | ok (m : PMap)
  | fail (cause region : Nat) (malformed : Bool)
deriving DecidableEq, Repr

/-- The stack of a page. -/
def Page.stack (p : Page) : Nat := p.addr / 2 ^ 36

/-- Walk every plane, journal and the frozen bitmap of a map (R283, R285 cause 4). -/
def State.walkMap (s : State) (e : Env) (d : Nat) (m : PMap) : State × MapLoad :=
  let r := (m.regions.zipIdx).foldl (fun (a : State × MapLoad × List Page) p =>
    match a.2.1 with
    | .fail _ _ _ => a
    | .ok _ =>
      let w := a.1.mapWalk e d p.1.planes (fun g => g.stack == p.1.stack && (g.write || p.1.kind == 1)) a.2.2
      (w.1, if w.2.1 = 0 then a.2.1 else .fail w.2.1 (if w.2.1 = 6 then 0 else p.2) w.2.2.1, w.2.2.2)) (s, .ok m, [])
  let r := (m.jrnl.zipIdx).foldl (fun (a : State × MapLoad × List Page) p =>
    match a.2.1 with
    | .fail _ _ _ => a
    | .ok _ =>
      let w := a.1.mapWalk e d [((p.1.1 : Int), (p.1.2 : Int))] (fun g => g.stack == p.2 && g.write) a.2.2
      (w.1, if w.2.1 = 0 then a.2.1 else .fail w.2.1 0 w.2.2.1, w.2.2.2)) r
  match r.2.1 with
  | .fail c i b => (r.1, .fail c i b)
  | .ok _ =>
    let fz : List (Int × Int) := if m.frozenVa = 0 then [] else [((m.frozenVa : Int), (ceilDiv m.blocks 8 : Nat))]
    let w := r.1.mapWalk e d fz (fun _ => true) r.2.2
    if w.2.1 ≠ 0 then (w.1, .fail w.2.1 0 w.2.2.1) else (w.1, .ok { m with pages := w.2.2.2 })

/-- The limits of R284. -/
def State.mapLimits (s : State) (d : Nat) (m : PMap) : Bool :=
  let others := (s.upd.maps.filter (fun p => p.1 != d)).filterMap (·.2)
  let on (m : PMap) (k : Nat) := m.regions.any (fun r => r.stack == k)
  decide (m.pages.length ≤ 16384) && decide ((others.map (·.regions.length)).sum + m.regions.length ≤ 16384) &&
  decide ((others.map (·.pages.length)).sum + m.pages.length ≤ 65536) &&
  (List.range 24).all (fun k => !on m k ||
    decide (((others.filter (on · k)).map (·.recipes.length)).sum + m.recipes.length ≤ 256))

/-- The load of a domain's map: header, regions, checks, pages, recipes, limits (R283-R285); of several checks that fail the first in this
order gives the cause, and region 0 where none is at fault (log entry 131). -/
def State.loadMap (s : State) (e : Env) (d : Nat) : State × MapLoad :=
  let va := (s.reg (rUpdMapBase d)).toNat
  let h := s.mapRead e d va 512 7
  match h.2 with
  | .fail c b => (h.1, .fail c 0 b)
  | .ok hb =>
    let w := leNat hb
    let n := bits w 15 0
    let nr := bits w 22 16
    let j (k : Nat) := (bits w (256 + 128 * k + 51) (256 + 128 * k), bits w (256 + 128 * k + 111) (256 + 128 * k + 64))
    let js := (List.range 24).map j
    let frozen := bits w 115 64
    let rva := bits w 179 128
    let rsvd := bits w 63 23 == 0 && bits w 127 116 == 0 && bits w 255 180 == 0 && bits w 4095 3328 == 0 &&
      (List.range 24).all (fun k => bits w (256 + 128 * k + 63) (256 + 128 * k + 52) == 0 &&
        bits w (256 + 128 * k + 127) (256 + 128 * k + 112) == 0)
    if !rsvd then (h.1, .fail 1 0 false)
    else if 4096 < n ∨ 64 < nr ∨ js.any (fun p => p.2 % 256 != 0) then (h.1, .fail 8 0 false)
    else
      let q := h.1.mapRead e d (va + 512) (64 * n) 7
      match q.2 with
      | .fail c b => (q.1, .fail c 0 b)
      | .ok rb =>
        let ws := (List.range n).map (fun i => leNat ((rb.drop (64 * i)).take 64))
        let rs := ws.map regionOf
        match ws.findIdx? (fun w => !regionRsvd w), firstBad Region.fieldsOk rs, orderBad 0 0 rs, firstBad Region.aligned rs with
        | some i, _, _, _ => (q.1, .fail 1 i false)
        | _, some i, _, _ => (q.1, .fail 8 i false)
        | _, _, some i, _ => (q.1, .fail 2 i false)
        | _, _, _, some i => (q.1, .fail 3 i false)
        | none, none, none, none =>
          if frozen % 8 ≠ 0 ∨ rva % 64 ≠ 0 ∨ js.any (fun p => p.1 % 256 != 0) then (q.1, .fail 3 0 false)
          else
            let m : PMap := { regions := rs, recipes := [], frozenVa := frozen, jrnl := js, pages := [] }
            let t := q.1.walkMap e d m
            match t.2 with
            | .fail c i b => (t.1, .fail c i b)
            | .ok m =>
              let p := t.1.mapRead e d rva (320 * nr) 4
              match p.2 with
              | .fail c b => (p.1, .fail c 0 b)
              | .ok cb =>
                let rcs := (List.range nr).map (fun i => recipeOf ((cb.drop (320 * i)).take 320))
                let okR (r : Region) : Bool := r.kind != 0 || (match rcs[r.recipe]? with
                  | some c => c.okStep r.states
                  | none => false)
                match rcs.all Recipe.okAny, firstBad okR rs with
                | false, _ => (p.1, .fail 5 0 false)
                | true, some i => (p.1, .fail 5 i false)
                | true, none =>
                  let m := { m with recipes := rcs }
                  if p.1.mapLimits d m then (p.1, .ok m) else (p.1, .fail 6 0 false)

/-- PARAMETER_MAP_LOADED (R283): the pending enable ends; the domain is enabled, or stays disabled with its error. -/
def execParameterMapLoaded (d : Nat) (e : Env) (s : State) : Host.Outcome State Fault Refusal :=
  if s.rb (rDomCtl d) 1 then
    let r := (s.upsets e).loadMap e d
    let s := r.1.setRb (rDomCtl d) 1 false
    match r.2 with
    | .ok m => .next ((s.setRb (rDomCtl d) 0 true).setUpd { s.upd with maps := Tab.set mapReset s.upd.maps d (some m) })
    | .fail c i b =>
      let s := s.setRb (rDomCtl d) 0 false
      let s := if s.rb rUpdMapErr 24 then s
        else s.setReg rUpdMapErr (BitVec.ofNat 64 (c + i % 4096 * 2 ^ 4 + d * 2 ^ 16 + 2 ^ 24))
      .next (if b then s.snuffer 2 else s)
  else .next s

/-! ### Parameter tensors -/

/-- Byte ranges of every region of a domain's map: what makes a read footprint a parameter read (R270, R319). -/
def State.paramRanges (s : State) (d : Nat) : List (Int × Int) :=
  match s.pmap d with
  | some m => m.regions.flatMap Region.planes
  | none => []

/-- Does a command with these descriptors read a parameter tensor (R270)? A RUN that writes nothing is one (R314). -/
def State.readsParams (s : State) (c : Cmd) (ds : List (Option Desc)) : Bool :=
  let ps := s.paramRanges c.dom
  (c.hands.zip ds).any (fun hd =>
    match hd.1.dir, hd.2 with
    | .wr, _ => false
    | _, some d => d.vranges.any (fun v => ps.any (meets v))
    | _, none => false) ||
  (c.opcode == oUpdate && c.form == 1)

/-- Does a command of the domain that reads a parameter tensor run, or wait for the rest of its rows as a continuation (R137, R270)? -/
def State.paramReader (s : State) (d : Nat) : Bool :=
  s.runs.any (fun r => r.cmd.dom == d && s.readsParams r.cmd r.descs) ||
  (List.range 160).any (fun q => match s.head q with
    | some h => h.cont.isSome && h.cmd.dom == d && s.readsParams h.cmd h.descs
    | none => false)

/-! ### Reduced blocks -/

/-- The index and entry of the OWNED region that holds block g (Table UE-4 step 2). -/
def PMap.region (m : PMap) (g : Nat) : Option (Region × Nat) :=
  (m.regions.zipIdx).find? (fun p => p.1.kind == 0 && decide (p.1.g0 ≤ g ∧ g < p.1.g0 + p.1.nb))

/-- The position of block g of region i in parameter-map order (R287). -/
def PMap.position (m : PMap) (i g : Nat) : Nat :=
  (((m.regions.take i).filter (fun r => r.kind == 0)).map (·.nb)).sum + g - ((m.regions[i]?).map (·.g0)).getD 0

/-- Take a block out of the feed: its credit returns (R290). -/
def State.leaveFeed (s : State) (b : GBlk) : State := (s.setUpd (({ s.upd with feed := s.upd.feed.erase b } : Upd).credit)).refill

/-- UPDATE_BLOCK_TAKE (R289, R290, R292): the oldest block of the domain's step is handled up to step 5 of Table UE-4. -/
def execUpdateBlockTake (d : Nat) (e : Env) (s0 : State) : Host.Outcome State Fault Refusal :=
  let s := (s0.seeSram (.update d)).useFd [.updater]
  match (s.dom d).step with
  | none => .next s
  | some st =>
    match s.upd.feed.find? (fun b => b.dom == d && b.step == st.number) with
    | none => .next s
    | some b =>
      if s.stepState d ≠ 3 ∨ st.poison.isSome ∨ s.paramReader d ∨ s.flt.fatal
      then .next s
      else
        let s := s.upsets e
        let drop (s : State) : State := (s.leaveFeed b).bump (cStepDiscard d) 1
        let bad := if b.nan then 1 else if b.ofMark then 2 else if b.poison then 5 else 0
        .next (
          if bad ≠ 0 then (drop s).raisePoison d st.number bad
          else match (s.pmap d).bind (fun m => (m.region b.g).map (fun r => (m, r))) with
            | none => (((s.leaveFeed b).bump (cUpdNomap d) 1).contained d { cls := 2, src := 27, mkind := 3, mid := 3 } [])
            | some (m, rg, i) =>
              let pos := m.position i b.g
              let fz := if m.frozenVa = 0 then (s, 0, false) else s.peek e d m.pages (m.frozenVa + pos / 8 : Nat) 1
              let s := fz.1
              if fz.2.2 then (drop s).raisePoison d st.number 3
              else if bit fz.2.1 (pos % 8) then (s.leaveFeed b).bump (cUpdFrozen d) 1
              else match st.latched with
                | none => (drop s).contained d { cls := 2, src := 27, mkind := 3, mid := 3 } []
                | some rec =>
                  let u : Ucmd := { dom := d, step := st.number, g := b.g, region := i, recipe := rg.recipe, sched := rec, blk := b,
                                    gen := (s.dom d).jgen, direct := st.direct }
                  s.setUpd { s.upd with feed := s.upd.feed.erase b, batch := s.upd.batch ++ [u] })

/-- Micro-commands of a batch that the Grate FIFOs of 512 entries can take in order (R234), at most 256. -/
def batchFit (m : Ucmd → Nat) (fifo : Nat → Nat) : Nat → List Ucmd → List Ucmd → List Ucmd
  | 0, _, acc => acc
  | _, [], acc => acc
  | n + 1, u :: us, acc =>
    if fifo (m u) + (acc.filter (fun v => m v == m u)).length < 512 then batchFit m fifo n us (acc ++ [u]) else acc

/-- The stack of a micro-command's region. -/
def State.ucmdStack (s : State) (u : Ucmd) : Nat :=
  (((s.pmap u.dom).bind (fun m => m.regions[u.region]?)).map (·.stack)).getD 0
def State.ucmdRecipe (s : State) (u : Ucmd) : Option Recipe := (s.pmap u.dom).bind (fun m => m.recipes[u.recipe]?)

/-- The batch that is issued next, and its tokens (R49, R234). -/
def State.batchNext (s : State) : List Ucmd :=
  batchFit s.ucmdStack (fun k => (s.fifo k).length) 256 s.upd.batch []
def State.batchTokens (s : State) : Nat :=
  ceilDiv ((s.batchNext.map (fun u => ((s.ucmdRecipe u).map (·.energy)).getD 0)).sum) 1000

/-- The oldest micro-command of the batch goes to its stack's Grate unit (Table UE-4 step 7). -/
def State.issueUcmd (s : State) (u : Ucmd) : State :=
  let t := s.setFifo (s.ucmdStack u) (s.fifo (s.ucmdStack u) ++ [.micro u])
  ((t.setUpd ({ t.upd with batch := t.upd.batch.drop 1 } : Upd).credit).bump (cUpdIssued u.dom) 1).refill

/-! ### Grate units -/

/-- Read the planes a recipe names for block `b` of a region (R302 step 1): the input of the recipe, the old scale bytes,
whether one of these words is poisoned. -/
def X.blkRead (x : X) (rg : Region) (rc : Recipe) (b step : Nat) (grad : List Ex) (rho : W32) (slots : List W32) :
    X × BlkIn × List Nat × Bool :=
  let rd (x : X) (on : Bool) (a n k : Nat) : X × List Nat × Bool := if on then x.readWords .va a k n else (x, [], false)
  let hi := rd x rc.readsW (rg.highVa + 64 * b) 32 2
  let lo := rd hi.1 rc.readsW (rg.residVa + 64 * b) 32 2
  let w := List.zipWith (fun h l => h * 65536 + l) hi.2.1 lo.2.1
  let sc := rd lo.1 ((List.range 3).any rc.names) (rg.scaleVa + 4 * b) 4 1
  let ps := (List.range 3).foldl (fun (a : X × List (List Nat × Int) × Bool) p =>
    let r := rd a.1 (rc.names p) (rg.stateVa + 64 * rg.nb * p + 64 * b) 32 2
    (r.1, a.2.1 ++ [(r.2.1, signed 8 (sc.2.1.getD p 0))], a.2.2 || r.2.2)) (sc.1, [], false)
  (ps.1, { grad, rho, ks := rc.ks, slots, w, planes := ps.2.1, stoch := rc.stoch, step, tid := rg.tensor, e0 := 32 * b },
    sc.2.1, hi.2.2 || lo.2.2 || sc.2.2 || ps.2.2)

/-- Write what a recipe has written (R302 step 4). -/
def X.blkWrite (x : X) (rg : Region) (b : Nat) (o : BlkSt) : X :=
  let put (x : X) (a : Nat) (vs : List Nat) : X := (vs.zipIdx).foldl (fun x v => x.write .va (a + 2 * v.2 : Nat) v.1 false 2) x
  let x := match o.stw with
    | some w => put (put x (rg.highVa + 64 * b) (w.map (· / 65536))) (rg.residVa + 64 * b) (w.map (· % 65536))
    | none => x
  (List.range 3).foldl (fun x p =>
    match Tab.get stsReset o.sts p with
    | some (vs, z) =>
      (put x (rg.stateVa + 64 * rg.nb * p + 64 * b) vs).write .va (rg.scaleVa + 4 * b + p : Nat) (unsigned 8 z) false 1
    | none => x) x

/-- A journal entry (R308, Table UE-10). -/
def journalEntry (m : Ucmd) (rc : Recipe) (i : BlkIn) (old : List Nat) : List Byte :=
  let ps := (List.range 3).filter rc.writes
  let pm := ps.foldl (fun a p => a + 2 ^ p) 0
  let osc := ps.foldl (fun a p => a + old.getD p 0 * 2 ^ (8 * p)) 0
  leBytes 16 (m.g + m.gen * 2 ^ 32 + b2n rc.writesW * 2 ^ 64 + pm * 2 ^ 65 + osc * 2 ^ 72) ++
  (if rc.writesW then i.w.flatMap (fun w => leBytes 2 (w / 65536)) ++ i.w.flatMap (fun w => leBytes 2 (w % 65536)) else []) ++
  ps.flatMap (fun p => ((i.planes.getD p ([], 0)).1).flatMap (leBytes 2))

/-- Write the whole blocks of a journal's write buffer to its stack (R307): `base` is where the buffer starts. -/
def State.drainJournal (s : State) (d : Nat) (pages : List Page) : Nat → Nat → List Byte → State × List Byte
  | 0, _, bs => (s, bs)
  | f + 1, base, bs =>
    if 256 ≤ bs.length then State.drainJournal (s.poke d pages base (bs.take 256)) d pages f (base + 256) (bs.drop 256)
    else (s, bs)

/-- Append an entry to a stack's journal (R307, R309); `none` where it does not fit. -/
def State.journal (s : State) (d k : Nat) (m : PMap) (ent : List Byte) (info : Nat × Nat × Bool × Nat) : Option State :=
  let dm := s.dom d
  let j := m.jrnl.getD k (0, 0)
  let p := Tab.get natReset dm.jptr k
  if j.2 < p + ent.length then none
  else
    let buf := Tab.get bytesReset dm.jbuf k
    let r := s.drainJournal d m.pages 4 (j.1 + (p - buf.length)) (buf ++ ent)
    some ((r.1.modDom d (fun x => { x with jptr := Tab.set natReset x.jptr k (p + ent.length), jbuf := Tab.set bytesReset x.jbuf k r.2 })).modStep d
      (fun st => { st with journal := (k, p, info.1, info.2.1, info.2.2.1, info.2.2.2) :: st.journal }))

/-- A pair event (R303, R376): the pair that mismatched collects it, and the third within the window quarantines it. -/
def State.pairEvent (s : State) (k pair : Nat) : State :=
  let win := s.rf rSeCtl 9 0 * 3600000000000
  let key := 8 * k + pair
  let l := s.now :: (Tab.get listReset s.upd.pairEvents key).filter (fun t => decide (s.now - t ≤ win))
  let s := s.setUpd { s.upd with pairEvents := Tab.set listReset s.upd.pairEvents key (l.take 3) }
  if 3 ≤ l.length ∧ s.rb (rGratePairs k) (8 + pair) then
    let s := (s.setRb (rGratePairs k) (8 + pair) false).setRf (rGratePairs k) 3 0 (s.rf (rGratePairs k) 3 0 - 1)
    let s := (s.markHealth .pair k pair).logRec 5 [BitVec.ofNat 8 k, BitVec.ofNat 8 pair]
    if s.rf (rGratePairs k) 3 0 < 4 then s.replacement 2 k else s
  else s

/-- Working pairs of a stack, lowest first. -/
def State.pairs (s : State) (k : Nat) : List Nat := (List.range 8).filter (fun i => s.rb (rGratePairs k) (8 + i))

/-- Mismatches of a micro-command's pairs (R303): each charges the pair that ran it, and another working pair runs it again.
Answers whether a pair was left to run it. -/
def State.pairRun (s : State) (k : Nat) (fails : Nat) : State × Bool :=
  let ps := s.pairs k
  let bad := ps.take fails
  let s := bad.foldl (fun s p =>
    (s.minor { cls := 1, src := 7, mkind := 2, mid := k + p * 32, acc := 6 }).pairEvent k p) s
  (s, decide (fails < ps.length))

/-- The step's last work may be over: an abandonment that waited for it ends (R278 step 3). -/
def State.ucmdOver (s : State) (d : Nat) : State := s.endAbandon d

/-- A fault of the update path on a domain (source 27). -/
def State.updFault (s : State) (u : Ucmd) (k : Nat) : State :=
  (s.contained u.dom { cls := 2, src := 27, mkind := 2, mid := k } []).ucmdOver u.dom

/-- The kept work of one micro-command (R302, R304, R309). -/
def State.runUcmd (s : State) (e : Env) (k : Nat) (u : Ucmd) (m : PMap) (rg : Region) (rc : Recipe) : State :=
  let d := u.dom
  let b := u.g - rg.g0
  let x : X := { s, e, run := ownRun d m.pages, tile := none }
  let ty : ETy := if u.blk.wide then .zg16 else .zg8
  let grad := u.blk.elems.map (fun v => (ty.val v).scale u.blk.scale)
  let i := x.blkRead rg rc b u.step grad u.blk.rho (slotsOf32 (u.sched.map (·.toNat)))
  let s := i.1.s
  if i.2.2.2 then
    ((s.bump (cPoisonRead d) i.1.pw.length).raisePoison d u.step 3).ucmdOver d
  else
    let o := rc.run i.2.1
    let keep (s : State) : State :=
      let x : X := { s, e, run := ownRun d m.pages, tile := none }
      let s := (x.blkWrite rg b o).flush.s
      let pos := m.position u.region u.g
      (s.modStep d (fun st =>
        { st with applied := if st.applied.contains pos then st.applied else pos :: st.applied, flags := st.flags.or o.flags })).ucmdOver d
    if u.direct then keep s
    else
      let info := (u.region, b, rc.writesW, ((List.range 3).filter rc.writes).foldl (fun a p => a + 2 ^ p) 0)
      match s.journal d k m (journalEntry u rc i.2.1 i.2.2.1) info with
      | some s => keep s
      | none => s.updFault u k

/-- The micro-command at the head of a Grate unit's FIFO ends (R302-R304, R309): `fails` pairs disagree on it, by their pipes or by a
residue (R303, R366), and `crcFails` transfers of it mismatch first. -/
def State.endUcmd (s0 : State) (k : Nat) (u : Ucmd) (us : List GReq) (fails crcFails : Nat) (e : Env) : State :=
  let s := ((s0.upsets e).setFifo k us).bump (cUpdDone u.dom) 1
  let s := (List.range (min crcFails 3)).foldl (fun s _ =>
    (s.bump cUcmdRetry 1).minor { cls := 0, src := 5, mkind := 2, mid := k }) s
  if 4 ≤ crcFails then s.updFault u k
  else
    let r := s.pairRun k fails
    if !r.2 then r.1.updFault u k
    else match r.1.pmap u.dom with
      | none => r.1.ucmdOver u.dom
      | some m =>
        match m.regions[u.region]?, m.recipes[u.recipe]? with
        | some rg, some rc => r.1.runUcmd (inBase e) k u m rg rc
        | _, _ => r.1.ucmdOver u.dom

/-- MICRO_COMMAND (R302-R304, R309): a Grate unit whose oldest request is a micro-command ends it. -/
def execMicroCommand (k pairFails crcFails : Nat) (e : Env) (s0 : State) : Host.Outcome State Fault Refusal :=
  let s := match s0.fifo k with
    | .micro u :: _ => s0.seeSram (.update u.dom)
    | _ => s0
  match s.fifo k with
  | .micro u :: us => .next (if s.flt.fatal then s else s.endUcmd k u us (pairFails + Env.strikes e 3) crcFails e)
  | _ => .next s

/-! ### Rollback -/

/-- Byte at offset `o` of a stack's journal: in the write buffer, or in memory. -/
def State.jrnlBytes (s : State) (d k : Nat) (m : PMap) (o n : Nat) : State × List Byte × Bool :=
  let p := Tab.get natReset (s.dom d).jptr k
  let buf := Tab.get bytesReset (s.dom d).jbuf k
  let b0 := p - buf.length
  let inMem := min n (b0 - o)
  let x : X := { s, e := {}, run := ownRun d m.pages, tile := none }
  let r := (List.range inMem).foldl (fun (a : X × List Byte × Bool) i =>
    let b := a.1.byteAt .va 1 ((m.jrnl.getD k (0, 0)).1 + o + i : Nat); (b.1, b.2.1 :: a.2.1, a.2.2 || b.2.2)) (x, [], false)
  (r.1.s, r.2.1.reverse ++ ((buf.drop (o + inMem - b0)).take (n - inMem)), r.2.2)

/-- The write pointer of a stack's journal, rebuilt (R312): entries from offset 0, up to the first header whose `GEN` is not the
step's. A header that is poisoned has none. -/
def State.scanJournal (s : State) (d k : Nat) (m : PMap) : Nat → Nat → State × Nat
  | 0, o => (s, o)
  | f + 1, o =>
    if (m.jrnl.getD k (0, 0)).2 < o + 16 then (s, o)
    else
      let r := s.jrnlBytes d k m o 16
      let h := leNat r.2.1
      if r.2.2 ∨ r.2.1.length < 16 ∨ bits h 63 32 ≠ (s.dom d).jgen then (r.1, o)
      else State.scanJournal r.1 d k m f (o + 16 + 128 * bits h 64 64 + 64 * (bits h 65 65 + bits h 66 66 + bits h 67 67))

/-- Rebuild the pointers of a domain that were lost (R312): entries at or beyond the rebuilt pointer are not found. -/
def State.rebuildPtrs (s : State) (d : Nat) (m : PMap) : State :=
  if !(s.dom d).jlost then s
  else
    let s := (List.range 24).foldl (fun s k =>
      let r := s.scanJournal d k m ((m.jrnl.getD k (0, 0)).2 / 16 + 1) 0
      r.1.modStep d (fun st => { st with journal := st.journal.filter (fun j => j.1 != k || decide (j.2.1 < r.2)) })) s
    s.modDom d (fun x => { x with jlost := false })

/-- Write the poison pattern to the stack block that holds a plane's part of a parameter block (R311). -/
def State.poisonVa (s : State) (pages : List Page) (va : Nat) : State :=
  match pageOf pages va with
  | some p => if p.present && !p.host then s.setMem (s.mem.poisonBlk ((p.addr + (va - p.va)) / 256)) else s
  | none => s

/-- The planes of block `b` of a region that a journal entry holds, in its order (R308). -/
def Region.journalled (rg : Region) (b : Nat) (master : Bool) (ps : List Nat) : List Nat :=
  (if master then [rg.highVa + 64 * b, rg.residVa + 64 * b] else []) ++ ps.map (fun p => rg.stateVa + 64 * rg.nb * p + 64 * b)

/-- Restore one journal entry (R310, R311): its header says which block of which planes it holds (Table UE-10). Where that is poisoned, the
Grate unit still knows the planes (log entry 111). -/
def State.restore (s : State) (d : Nat) (m : PMap) (j : Nat × Nat × Nat × Nat × Bool × Nat) : State :=
  let hd := s.jrnlBytes d j.1 m j.2.1 16
  let h := leNat hd.2.1
  let ent : Option (Region × Nat × Bool × Nat) :=
    if hd.2.2 then (m.regions[j.2.2.1]?).map (fun rg => (rg, j.2.2.2.1, j.2.2.2.2.1, j.2.2.2.2.2))
    else (m.region (bits h 31 0)).map (fun p => (p.1, bits h 31 0 - p.1.g0, bit h 64, bits h 67 65))
  match ent with
  | none => hd.1
  | some (rg, b, master, pm) =>
    let ps := (List.range 3).filter (bit pm)
    let planes := rg.journalled b master ps
    let r := hd.1.jrnlBytes d j.1 m (j.2.1 + 16) (64 * planes.length)
    if hd.2.2 || r.2.2 then
      let s := planes.foldl (fun s a => s.poisonVa m.pages a) r.1
      (s.bump (cJrnlPoison d) 1).modStep d (fun st => { st with jrnlBad := true })
    else
      let s := (planes.zipIdx).foldl (fun s p => s.poke d m.pages p.1 ((r.2.1.drop (64 * p.2)).take 64)) r.1
      ps.foldl (fun s p => s.poke d m.pages (rg.scaleVa + 4 * b + p : Nat) [BitVec.ofNat 8 (bits h (8 * p + 79) (8 * p + 72))]) s

/-- The next batch of a rollback, and its tokens: 200 nJ an entry, in batches of 256 (R310). -/
def StepSt.rollBatch (st : StepSt) : List (Nat × Nat × Nat × Nat × Bool × Nat) := st.journal.take 256
def StepSt.rollTokens (st : StepSt) : Nat := ceilDiv (200 * st.rollBatch.length) 1000

/-! ### Schedule and RUN -/

/-- Checks of UPDATE (R294, R313, R315). -/
def State.updateChecks (s : State) (c : Cmd) (ds : List (Option Desc)) : Checks :=
  let sd := dAt ds 0
  let w0 := c.op 0
  let w1 := c.op 1
  let rsvd := zeroIn w0 7 1 && zeroIn w0 15 14 && zeroIn w0 63 48 && zeroIn w1 63 33
  let shape := sd.rank == 1 && sd.n0 == 128 && sd.count == 128
  let byte : Role := { tys := [.byte], record := true }
  if c.form = 0 then
    { roles := [byte],
      own := [orCause (rsvd && zeroIn w0 13 8) 1, orCause shape 2] }
  else
    let n := fld w1 31 16
    let f := fld w1 15 0
    let per := if fbit w1 32 then n else 1
    let ok := match s.pmap c.dom with
      | none => n == 0
      | some m =>
        decide (f + n ≤ m.regions.length) && decide (n ≤ 4096) &&
        (match m.recipes[fld w0 13 8]? with
         | none => false
         | some rc => rc.okAny && !rc.has 1 &&
            ((m.regions.drop f).take n).all (fun r => if rc.matrix then r.kind == 2 else r.kind == 0 && rc.planesIn r.states))
    { roles := [byte, { tys := [.za32], spaces := [1], record := true }]
      own := [orCause rsvd 1, orCause (shape && (!dHas ds 1 || (dAt ds 1).count == 4 * per)) 2,
        orCause (n == 0 || ok) 23]
      atOnce := n == 0 }

/-- The recipe of a RUN. -/
def State.runRecipe (s : State) (c : Cmd) : Option Recipe := (s.pmap c.dom).bind (fun m => m.recipes[fld (c.op 0) 13 8]?)

/-- The schedule record a command names, and whether a word of it is poisoned. -/
def X.schedRec (x : X) : X × List Nat × Bool :=
  let r := x.pats (dAt x.run.descs 0) 1 (List.range 128)
  let bs := r.2.map (fun p => BitVec.ofNat 8 p.1)
  (r.1, (List.range 32).map (fun k => leNat ((bs.drop (4 * k)).take 4)), r.2.any (·.2))

/-- UPDATE with FORM 0 at the head of its queue (R295). -/
def execUpdateSchedule (q : Nat) (s0 : State) : Host.Outcome State Fault Refusal :=
  let s := (s0.seeHead q).useFd [.updater]
  match s.head q with
  | none => .next s
  | some h =>
    let c := h.cmd
    let d := c.dom
    if c.opcode ≠ oUpdate ∨ c.form ≠ 0 ∨ !h.loaded ∨ s.flt.fatal ∨ !s.domOn d then .next s
    else if s.stepState d ≠ 1 ∧ s.stepState d ≠ 2 then .next (s.completeHead q { status := 1, cause := 21 })
    else
      let r : Run := { cmd := c, q, unit := .updater, descs := h.descs, pages := h.pages }
      let x := (s.ownX r none).schedRec
      let s := x.1.crossed
      match x.1.stop with
      | some st =>
        let s := (s.completeHead q { status := 4, cause := st.cause }).bump (cXlateFault d) (if st.src = 17 then 1 else 0)
        .next (s.contained d { s.runEv r st.src st.detail with addr := st.addr, akind := st.akind, acc := st.acc } [])
      | none =>
        if x.2.2 then
          let s := (s.bump (cPoisonRead d) x.1.pw.length).completeHead q { status := 2 }
          let pt := x.1.pAt.getD (0, 0, 0)
          .next (s.contained d { s.runEv r 16 0 with addr := pt.1, akind := pt.2.1, acc := pt.2.2 } [])
        else if x.2.1.getD 0 0 ≠ s.rf (rStepNumber d) 31 0 then .next (s.completeHead q { status := 1, cause := 21 })
        else
          let s := s.modStep d (fun st => { st with sched := some (x.2.1.map (BitVec.ofNat 32)) })
          .next (s.completeHead q {})

/-- Accumulators of a RUN: sums by region. -/
structure RunAcc where
  x : X
  accs : List (List (W32 × Flags)) := []
  blocks : Nat := 0
  sing : Nat := 0
deriving DecidableEq, Repr

/-- A block recipe over a region (R313, R315): a block with a poisoned word is left unwritten. -/
def X.runRegion (x : X) (rg : Region) (rc : Recipe) (step : Nat) (slots : List W32) : X × List (W32 × Flags) :=
  let zero : List (W32 × Flags) := List.replicate 4 (0#32, {})
  (List.range rg.nb).foldl (fun (a : X × List (W32 × Flags)) b =>
    let i := a.1.blkRead rg rc b step [] 0#32 slots
    if i.2.2.2 then (i.1, a.2)
    else
      let o := (rc.ops.foldl (BlkSt.op i.2.1) { acc := a.2.map (fun v => (v.1, {})) } : BlkSt)
      let fl := o.acc.foldl (fun f v => f.or v.2) o.flags
      ((i.1.blkWrite rg b o).orF fl, o.acc)) (x, zero)

/-- A matrix recipe on a MATRIX region (R317): output written after the last attempt. -/
def X.runMatrix (x : X) (rg : Region) (rc : Recipe) (slots : List W32) : X × Bool :=
  let n := rg.matN
  let r := x.readWords .va rg.highVa 4 (n * n)
  if r.2.2 then (r.1, false)
  else
    let m := (List.range n).map (fun i => ((r.2.1.drop (n * i)).take n).map (BitVec.ofNat 32))
    let lam := rc.lam slots
    let o := invert n m lam.1
    let x := ((o.1.flatten).zipIdx).foldl (fun x v => x.write .va (rg.residVa + 4 * v.2 : Nat) v.1.toNat false 4) r.1
    (x.orF (lam.2.or o.2.2), o.2.1)

/-- One execution of a RUN (R313-R317); what `BLOCKS` counts of a matrix and of a poisoned block is log entry 132. -/
def X.updateRun (x : X) : X :=
  let c := x.run.cmd
  match x.s.pmap c.dom, x.s.runRecipe c with
  | some m, some rc =>
    let sr := x.schedRec
    let slots := slotsOf32 sr.2.1
    let own := ownRun c.dom m.pages
    let rs := (m.regions.drop (fld (c.op 1) 15 0)).take (fld (c.op 1) 31 16)
    let rd := x.run.descs.getD 1 none
    if sr.2.2 then
      (match rd with | some d => sr.1.poisonAll d | none => sr.1).freeResult (maskW 47 0)
    else
      let a := rs.foldl (fun (a : RunAcc) rg =>
        if rc.matrix then
          let r := a.x.runMatrix rg rc slots
          { a with x := r.1, accs := a.accs ++ [List.replicate 4 (0#32, {})], blocks := a.blocks + 1, sing := a.sing + b2n r.2 }
        else
          let r := a.x.runRegion rg rc (x.s.stepNo c.dom) slots
          { a with x := r.1, accs := a.accs ++ [r.2], blocks := a.blocks + rg.nb })
        { x := { sr.1 with run := own, e := inBase sr.1.e } }
      let y := { a.x with run := x.run, e := x.e }
      let one := a.accs.foldl (fun (t : List (W32 × Flags)) v => List.zipWith (fun p q => let u := addZ p.1 q.1; (u.1, p.2.or u.2)) t v)
        (List.replicate 4 ((0#32, {}) : W32 × Flags))
      let per := fbit (c.op 1) 32
      let out := if per then a.accs.flatten else one
      -- the fold over regions raises its flags, whether its results are written or not (R81, R315)
      let y := if per then y else y.orF (one.foldl (fun (f : Flags) (v : W32 × Flags) => f.or v.2) ({} : Flags))
      let y := match rd with
        | some d => (out.zipIdx).foldl (fun (y : X) (v : (W32 × Flags) × Nat) => y.put d v.2 v.1.1.toNat false) y
        | none => y
      let s := y.s.bump (cInvertSing c.dom) a.sing
      { y with s, result := BitVec.ofNat 64 (satN 32 a.blocks + satN 16 a.sing * 2 ^ 32) }
  | _, _ => x

/-- The stacks on which a RUN works. -/
def State.runStacks (s : State) (c : Cmd) : List Nat :=
  match s.pmap c.dom with
  | some m => (((m.regions.drop (fld (c.op 1) 15 0)).take (fld (c.op 1) 31 16)).map (·.stack)).eraseDups
  | none => []

/-- Pairs that disagree on work of a RUN (R303, R376): fault stage 6, `row` the stack; each such fault charges the next working pair,
and another runs the work again. Answers whether every stack had a pair left. -/
def State.runPairs (s : State) (c : Cmd) (e : Env) : State × Bool :=
  (s.runStacks c).foldl (fun a k =>
    let r := a.1.pairRun k (e.faults.filter (fun f => decide (f.stage = 6 ∧ f.row = k))).length
    (r.1, a.2 && r.2)) (s, true)

/-- UPDATE with FORM 1 executes on the update sequencer (R313-R315), behind what its Grate units hold (R234). -/
def execUpdateRun (id : Nat) (e : Env) (s0 : State) : Host.Outcome State Fault Refusal :=
  match s0.findRun id with
  | none => .next s0
  | some r0 =>
    if r0.cmd.opcode ≠ oUpdate ∨ r0.st ≠ .admitted ∨ s0.flt.fatal then .next s0
    else
      let s := ((s0.seeSram (.queue id)).seeSram (.update r0.cmd.dom)).useFd [.updater]
      match s.findRun id with
      | none => .next s
      | some r => .next (s.atGrate (.job id) (s.runStacks r.cmd) (fun s => (s.fdResidue r e).getD (
          let p := (s.upsets e).runPairs r.cmd e
          if p.2 then (({ s := p.1, e, run := r, tile := none } : X).updateRun).keep false
          else p.1.contained r.cmd.dom (p.1.runEv r 27 0) [(id, 0)])))

end Sys2Proof.Machine
end

