-- ==== Sys2Proof/Machine/StepOps.lean ====
section
/-!
DEFINITION. The training step (10_training_step): STEP_OPEN and STEP_SEAL at the head of their queues (R267-R270), readiness
and the seal barrier (R271, R344), the actions of the seal stoke (Table TS-6), abandonment by the host (R278).
-/
namespace Sys2Proof.Machine

/-- Does a command have a load at the head of its queue: a declared one, for the checks of R398 and R399 follow there, and one that names
a descriptor? -/
def Cmd.needsLoad (c : Cmd) : Bool := !c.boundZero || c.hands.any (fun h => !(h.opt && h.h == 65535))

/-- The step number after `n`, modulo 2^32, skipping 0 (R267). -/
def nextStep (n : Nat) : Nat := nextSeq n

/-! ### STEP_OPEN, STEP_SEAL -/

/-- A RUN of the domain that writes or inverts is running (R314). -/
def State.writingRun (s : State) (d : Nat) : Bool :=
  s.runs.any (fun r => r.cmd.dom == d && r.cmd.opcode == oUpdate && r.cmd.form == 1 &&
    (match s.runRecipe r.cmd with | some rc => rc.writesAny || rc.matrix | none => false))

/-- POISON packets that waited for the step are applied when it opens (R343). -/
def State.applyHeld (s : State) (d step : Nat) : State :=
  let hs := (s.dom d).held
  let s := s.modDom d (fun x => { x with held := [] })
  (hs.filter (fun h => h.1 == step)).foldl (fun s h => s.setPoison d step h.2.1 h.2.2) s

/-- The step opens (R267, R307). -/
def State.openStep (s : State) (d step : Nat) (direct : Bool) (amap : Option (Desc × List Page)) : State :=
  let s := s.setReg (rStepNumber d) (BitVec.ofNat 64 step)
  let s := s.eachCtx d State.stageBiases
  let s := (s.cledOpen d step).setStepState d 1
  let s := s.modDom d (fun x =>
    { x with step := some { number := step, direct, amap }, jgen := nextSeq x.jgen, jptr := [], jbuf := [], jlost := false })
  s.applyHeld d step

/-- The conditions under which STEP_OPEN is rejected with cause STEP (R267). -/
def State.stepOpenBad (s : State) (c : Cmd) : Bool :=
  let w := c.op 0
  let n := fld w 31 0
  s.stepOpenB c.dom || n == 0 || n != nextStep (s.rf (rStepLastSealed c.dom) 31 0) ||
  (fbit w 32 == (fld w 63 48 == 65535))

/-- STEP_OPEN at the head of its queue (R267, R314). -/
def execStepOpen (q : Nat) (s0 : State) : Host.Outcome State Fault Refusal :=
  let s := s0.atHead q
  match s.head q with
  | none => .next s
  | some h =>
    let c := h.cmd
    if c.opcode ≠ oStepOpen ∨ s.flt.fatal ∨ !s.domOn c.dom then .next s
    else if c.needsLoad ∧ !h.loaded then .next s
    else if s.stepOpenBad c then .next (s.completeHead q { status := 1, cause := 21 })
    else if s.stepState c.dom = 4 ∨ s.writingRun c.dom then .next s
    else
      let amap := (h.descs.getD 0 none).map (fun d => (d, h.pages))
      .next ((s.openStep c.dom (fld (c.op 0) 31 0) (fbit (c.op 0) 32) amap).completeHead q {})

/-- STEP_SEAL at the head of its queue (R270, R295): the domain enters UPDATE; the command stays until the seal stoke. -/
def execStepSeal (q : Nat) (s0 : State) : Host.Outcome State Fault Refusal :=
  let s := s0.atHead q
  match s.head q with
  | none => .next s
  | some h =>
    let c := h.cmd
    let d := c.dom
    if c.opcode ≠ oStepSeal ∨ s.flt.fatal ∨ !s.domOn c.dom then .next s
    else match (s.dom d).step with
      | none => .next (s.completeHead q { status := 1, cause := 21 })
      | some st =>
        if st.sealId = some c.id then .next s
        else if !s.stepOpenB d || st.sealId.isSome then .next (s.completeHead q { status := 1, cause := 21 })
        else .next ((s.setStepState d 3).modStep d (fun x => { x with latched := x.sched, sealId := some c.id }))

/-! ### Readiness -/

/-- Is the command a reduction of a step (R346)? -/
def Cmd.ofStep (c : Cmd) : Bool := c.isCollective && fbit (c.op 1) 6

/-- Is a reduction of the domain's step not complete: running, or at the head of a queue, where it waits for admission (R271; log entry
45)? -/
def State.reducing (s : State) (d : Nat) : Bool :=
  s.runs.any (fun r => r.cmd.dom == d && r.cmd.ofStep) ||
  (List.range 160).any (fun q => match s.head q with | some h => h.cmd.dom == d && h.cmd.ofStep | none => false)

/-- Is the module ready to seal the domain's open step (R271)? -/
def State.readyToSeal (s : State) (d : Nat) : Bool :=
  match (s.dom d).step with
  | none => false
  | some st =>
    s.stepState d == 3 && !s.reducing d &&
    !(s.upd.feed ++ s.upd.batch.map (·.blk)).any (fun b => b.dom == d && b.step == st.number) &&
    !s.upd.staged.any (fun r => r.dom == d && r.step == st.number) && s.ucmds d == 0

/-- The frame master counts a READY of a member (R344): with the last of `size` distinct members, the next marker carries
the domain's bit. -/
def State.countReady (s : State) (d step size m : Nat) : State :=
  let f := s.fab
  let rs := if f.readies.contains (d, step, m) then f.readies else f.readies ++ [(d, step, m)]
  let f := { f with readies := rs }
  if size ≤ (rs.filter (fun r => r.1 == d && r.2.1 == step)).length then
    { s with fab := { f with readies := rs.filter (fun r => !(r.1 == d && r.2.1 == step)),
                             sealMap := if f.sealMap.contains d then f.sealMap else f.sealMap ++ [d] } }
  else { s with fab := f }

/-- Tell the frame master of readiness (R344; log entry 23 for the master's number). -/
def State.sendReady (s : State) (d step : Nat) : State :=
  let n := (s.sealGroup d).length
  if n = 0 then s
  else if s.rangeState = 3 then s.countReady d step n s.member
  else s.send { kind := .ready, vc := 0, src := s.member, dst := Config.masterMember % 1024, f := [d, n, step] }

/-- The sample of readiness at a stoke (R271, R344): a module that seals alone seals at the next stoke, also one whose seal group was
disabled after it was ready (R342). -/
def State.sampleReady (s : State) : State :=
  let s := s.fab.readyDue.foldl (fun s r => s.sendReady r.1 r.2) { s with fab := { s.fab with readyDue := [] } }
  (s.doms.map (·.1)).foldl (fun s d =>
    match (s.dom d).step with
    | some st =>
      if !st.ready && s.readyToSeal d then
        let s := s.modStep d (fun x => { x with ready := true, sealAt := if (s.sealGroup d).isEmpty then some (s.frameNo + 1) else none })
        s.sendReady d st.number
      else if st.ready && st.sealAt.isNone && (s.sealGroup d).isEmpty then
        s.modStep d (fun x => { x with sealAt := some (s.frameNo + 1) })
      else s
    | none => s) s

/-! ### The seal stoke -/

/-- The seal stoke of a domain (Table TS-6, R357). An abandoned step has none: it ends by R278. -/
def State.sealDomain (s : State) (d : Nat) : State :=
  match (s.dom d).step with
  | none => s
  | some st =>
    if s.stepState d ≠ 3 || !st.ready || st.abandoned then s
    else if st.poison.isSome then s.refuseSeal d
    else
      let s := s.eachCtx d State.liveBiases
      let s := s.closeLate d (fun w => w.step != st.number || w.lateSlots == 0)
      let s := s.modDom d (fun x => { x with jptr := [], jbuf := [] })
      let s := s.setRf (rStepLastSealed d) 31 0 st.number
      s.endStep d 0 st.applied.length

/-- Every domain whose seal stoke this is: those of the seal map, and those that seal alone in this frame (R342, R344). -/
def State.sealStoke (s : State) (map : List Nat) : State :=
  (s.doms.map (·.1)).foldl (fun s d =>
    match (s.dom d).step with
    | some st =>
      let alone := decide (st.sealAt = some s.frameNo)
      if alone || map.contains d then s.sealDomain d else s
    | none => s) s

/-- A write of `STEP_ABANDON` (R278): abandonment and state FAULTED, without a fault. -/
def State.hostAbandon (s : State) (d : Nat) : State :=
  if s.stepOpenB d then (s.stopDomain d []).abandon d else s

end Sys2Proof.Machine
end

