-- ==== Sys2Proof/Machine/Coll.lean ====
section
/-!
DEFINITION. Collectives (12_chaug_fabric, R334-R358): checks, shards and units, closing of blocks, staging of reduced blocks,
late leaves, send bursts, completion.
-/
namespace Sys2Proof.Machine

/-! ### Operand words (Table CF-11) -/

def Cmd.group (c : Cmd) : Nat := fld (c.op 1) 5 0
def Cmd.lateSlots (c : Cmd) : Nat := fld (c.op 1) 10 8
def Cmd.dlFrames (c : Cmd) : Nat := fld (c.op 1) 23 16
def Cmd.root (c : Cmd) : Nat := fld (c.op 1) 41 32
def Cmd.dstStream (c : Cmd) : Nat := fld (c.op 1) 57 48
def Cmd.toStream (c : Cmd) : Bool := fbit (c.op 1) 58
def Cmd.gBase (c : Cmd) : Nat := fld (c.op 2) 31 0

/-- Is the opcode a reduction; does it gather? -/
def opReduces (o : Nat) : Bool := o == oReduceScatter || o == oAllReduce
def opGathers (o : Nat) : Bool := o == oAllGather || o == oAllReduce

/-! ### Shards and units -/

/-- Blocks in a shard (R345). -/
def shardQ (n N : Nat) : Nat := ceilDiv (ceilDiv n 32) N

/-- First element of a rank's shard, and one past its last. -/
def shardLo (n q r : Nat) : Nat := min n (32 * q * r)
def shardHi (n q r : Nat) : Nat := min n (32 * q * (r + 1))
def shardBlocks (n q r : Nat) : Nat := ceilDiv (shardHi n q r - shardLo n q r) 32

/-- Types that a destination of ALL_GATHER or BROADCAST may have (Table TD-3: INT4, INT8 and ZM32 are written by other commands
only). -/
def gatherTypes : List ETy := [.zf8, .zg8, .zf16, .zg16, .za32, .u32, .u64, .byte, .bitmap]

/-- Types that the destination of a reduction may have. -/
def reducedTypes : List ETy := [.zf8, .zg8, .zf16, .zg16, .za32]

/-- Units of 16 bytes that the elements of a tensor take in ascending λ; the units of its scale bytes follow (R328, Table
CF-8; log entry 52). -/
def elUnits (ty : ETy) (n : Nat) : Nat := ceilDiv (n * ty.bits) 128

/-- First unit and number of units that hold elements `lo` to `hi`, and the same for their scale bytes. -/
def unitRuns (ty : ETy) (scaled : Bool) (n lo hi : Nat) : (Nat × Nat) × (Nat × Nat) :=
  let u0 := lo * ty.bits / 128
  let e0 := elUnits ty n
  let b0 := lo / 32 / 16
  if hi ≤ lo then ((0, 0), (0, 0))
  else ((u0, ceilDiv (hi * ty.bits) 128 - u0), if scaled then (e0 + b0, ceilDiv (ceilDiv hi 32) 16 - b0) else (0, 0))

/-- How many units a rank's part takes, the `i`-th of them, and whether unit `u` is one. -/
def partUnits (p : (Nat × Nat) × (Nat × Nat)) : Nat := p.1.2 + p.2.2
def partUnit (p : (Nat × Nat) × (Nat × Nat)) (i : Nat) : Nat := if i < p.1.2 then p.1.1 + i else p.2.1 + (i - p.1.2)
def partHas (p : (Nat × Nat) × (Nat × Nat)) (u : Nat) : Bool :=
  decide (p.1.1 ≤ u ∧ u < p.1.1 + p.1.2) || decide (p.2.1 ≤ u ∧ u < p.2.1 + p.2.2)

/-- The part of a tensor that a member of rank `r` sends in a gather: the root's is all of it (R350). -/
def Coll.range (c : Coll) (r : Nat) : Nat × Nat :=
  if c.op = oBroadcast then (if r = c.root then (0, c.n) else (0, 0)) else (shardLo c.n c.q r, shardHi c.n c.q r)

/-! ### Checks -/

/-- Blocks of R345 are the blocks of R198. -/
def Desc.blocksOk (d : Desc) : Bool := !d.bscaled || (!d.bshape && !d.trans && !d.padded)

/-- A source that a reduction of a step may take (R259). -/
def Desc.stepOk (d : Desc) : Bool := (d.ty == .zg8 || d.ty == .zg16) && d.bscaled && !d.bshape

/-- The length of the whole tensor of a collective. -/
def collCount (c : Cmd) (ds : List (Option Desc)) : Nat :=
  if opReduces c.opcode then (dAt ds 0).count
  else if dHas ds 1 then (dAt ds 1).count
  else (dAt ds 0).count

/-- Checks of a collective (R345-R347, R349, R352, R356, Tables CF-11 to CF-13). -/
def State.collChecks (s : State) (c : Cmd) (ds : List (Option Desc)) : Checks :=
  let o := c.opcode
  let k := c.group
  let ms := s.groupMembers k
  -- a disabled group has no members with which sizes could agree
  let on := s.rb (rCgroupCtl k) 24
  let N := ms.length
  let own := ms.idxOf s.member
  let st := c.ofStep
  let red := opReduces o
  let bc := o == oBroadcast
  let src := dAt ds 0
  let dst := dAt ds 1
  let n := collCount c ds
  let q := shardQ n N
  let mine := shardHi n q own - shardLo n q own
  let wantS := if o = oAllGather then mine else n
  let wantD := if o = oReduceScatter then mine else n
  let sizes := (!dHas ds 0 || (src.count == wantS && (src.blocksOk || (st && !src.stepOk)))) && (!dHas ds 1 || (dst.count == wantD && dst.blocksOk))
  let bytes (d : Desc) (m : Nat) := d.rank == 1 && decide (m ≤ d.n0)
  let str := rStreamCfg c.dstStream
  let w1 := c.op 1
  let fields := zeroIn w1 15 11 && zeroIn w1 31 24 && zeroIn w1 47 42 && zeroIn w1 63 59 && zeroIn (c.op 2) 63 32 &&
    (c.lateSlots == 0 || c.lateSlots == 1 || c.lateSlots == 2 || c.lateSlots == 4) &&
    (if st then o == oReduceScatter && decide (1 ≤ c.dlFrames) && fld (c.op 0) 31 16 == 65535
     else c.dlFrames == 0 && fld (c.op 0) 47 32 == 65535) &&
    (fld (c.op 0) 63 48 == 65535) == (!st || c.lateSlots == 0) && (bc || (c.root == 0 && !c.toStream)) &&
    (!c.toStream || fld (c.op 0) 31 16 == 65535) && (!bc || own == c.root || fld (c.op 0) 15 0 == 65535) && c.tokens == 0
  { roles := [{ tys := if red then valueTypes else [.zm32, .int4, .int8] ++ gatherTypes },
      { tys := if red then reducedTypes else gatherTypes },
      { tys := [.byte], spaces := [0], record := true }, { tys := [.byte], spaces := [0], record := true }]
    own := [
      orCause (on && s.rf (rCgroupCtl k) 7 0 == c.dom && decide (c.root < N)) 24,
      orCause (!on || sizes) 2,
      orCause (!st || src.stepOk) 3,
      orCause (!on || !st || (bytes (dAt ds 2) (128 * q) && (!dHas ds 3 || bytes (dAt ds 3) (160 * c.lateSlots * q)))) 2,
      orCause (!st || s.stepOpenB c.dom) 21,
      orCause (red || !dHas ds 0 || !dHas ds 1 || (src.ety == dst.ety && src.bscaled == dst.bscaled)) 3,
      orCause (!c.toStream || (s.rb str 16 && s.rf str 7 0 == c.dom)) 25,
      orCause fields 1]
    atOnce := n == 0 && (dHas ds 0 || dHas ds 1) }

/-! ### The execution context of a collective -/

def State.collX (s : State) (r : Run) : X := s.ownX r none

/-- Its run has a completion to issue: COMMAND_COMPLETE comes next. -/
def State.collEnds (s : State) (id : Nat) (res : Res) : State := (s.freeColl id).executed id res false

/-- Keep what a collective has read and written so far: its writes, flags, counts; or its fault. -/
def X.settle (x : X) : State :=
  let r := x.run
  match x.stop with
  | some st => x.s.execFault r st
  | none =>
    let m := x.mergeReads
    let pp := m.partialPoison
    if pp.isEmpty then
      let y := x.flush
      y.s.modRun r.cmd.id (fun q =>
        { q with res := { q.res with flags := q.res.flags.or x.flags, poison := q.res.poison + y.pw.length,
                                     offered := q.res.offered + x.offered, done := q.res.done + x.done,
                                     dropped := q.res.dropped + x.dropped } })
    else (m.s.discard r).collEnds r.cmd.id { status := 2, poison := r.res.poison + x.pw.length + 32 * pp.length }

/-- The collective hears from the fabric in this frame (R362). -/
def State.heard (s : State) (id : Nat) : State := s.modRun id (fun r => { r with arrived := true })

/-! ### Leaves -/

/-- The type of a source's leaves: ZM32 is read as ZF16 (R188), an INT type as its expansion target. -/
def leafTy (d : Desc) : ETy :=
  match d.ty with
  | .zm32 => .zf16
  | .int4 | .int8 => if d.expTgt then .zf16 else .zf8
  | t => t

/-- The pattern that a leaf carries of the element at a linear index. -/
def X.leafPat (x : X) (d : Desc) (l : Nat) : X × Nat × Bool :=
  match d.at l with
  | none => (x, d.fillPat, false)
  | some i =>
    let r := x.raw d 1 i
    match d.ty with
    | .zm32 => (r.1, r.2.1 / 65536, r.2.2)
    | .int4 | .int8 =>
      let p := r.1.param d i r.2.1
      let v := expandInt d r.2.1 p.2.1 p.2.1
      (if r.2.2 || p.2.2 then p.1 else p.1.orF v.2, v.1, r.2.2 || p.2.2)
    | _ => r

/-- The leaf of a block of the source (R345): patterns, 0 beyond n; scale; which payload units carry poison. -/
def X.leafAt (x : X) (d : Desc) (n blk : Nat) : X × LeafRec × Nat :=
  let ty := leafTy d
  let r := (List.range 32).foldl (fun (a : X × List Nat × Nat) i =>
    let l := 32 * blk + i
    if l < n then
      let v := a.1.leafPat d l
      (v.1, v.2.1 :: a.2.1, if v.2.2 then a.2.2 ||| 2 ^ (i * ty.size / 16) else a.2.2)
    else (a.1, 0 :: a.2.1, a.2.2)) (x, [], 0)
  let sc := match d.at (32 * blk) with
    | some i => r.1.scale d i
    | none => (r.1, 0, false)
  let m := if sc.2.2 then 2 ^ (32 * ty.size / 16) - 1 else r.2.2
  (sc.1, ⟨r.2.1.reverse, sc.2.1, m != 0⟩, m)

/-- Does a leaf hold a NaN (R351)? -/
def LeafRec.nan (l : LeafRec) (ty : ETy) : Bool := l.elems.any (fun e => (ty.val e).isNan)

/-- The checks on a leaf of a reduction of a step (R351): poison, then NaN. -/
def State.leafCheck (s : State) (c : Coll) (ty : ETy) (l : LeafRec) : State :=
  if !c.isStep then s
  else if l.poison then s.raisePoison c.dom c.stepNo 5
  else if l.nan ty then s.raisePoison c.dom c.stepNo 1
  else s

/-- The least k with `n ≤ 2^k`. -/
def log2Up (n : Nat) : Nat := if n ≤ 1 then 0 else Nat.log2 (n - 1) + 1

/-- Lane `i` of a leaf of a type, as it enters the sums (R348); a missing leaf is +0. -/
def leafLane (i : Nat) : Option (ETy × LeafRec) → W32 × Flags
  | some l => convZA32 ((l.1.val (l.2.elems.getD i 0)).scale l.2.scale)
  | none => (0#32, {})

/-- The tree of R348 over values in order. -/
def treeOf (vs : List (W32 × Flags)) : W32 × Flags :=
  pairTree (log2Up vs.length) (vs ++ List.replicate (2 ^ log2Up vs.length - vs.length) ((0#32, {}) : W32 × Flags))

/-- The tree sum of lane `i` over leaves by rank (R348). -/
def treeSum (ty : ETy) (lv : List (Option LeafRec)) (i : Nat) : W32 × Flags :=
  treeOf (lv.map (fun l => leafLane i (l.map (fun v => (ty, v)))))

/-! ### Late leaves -/

/-- Byte offset of a slot of a step's half of a late store (R356). -/
def LateWin.slotAt (w : LateWin) (blk slot : Nat) : Nat :=
  ((w.step % 2) * w.q * w.lateSlots + blk * w.lateSlots + slot) * 80

/-- The 80 bytes of a late leaf (R356). -/
def lateBytes (ty : ETy) (ety rank : Nat) (l : LeafRec) : List Byte :=
  padTo 64 (l.elems.flatMap (leBytes ty.size)) ++ leBytes 1 (unsigned 8 l.scale) ++ leBytes 1 ety ++ leBytes 2 rank ++
  [1#8] ++ List.replicate 11 0#8

/-- An access that the module makes for a job outside its commands fails (R223): counted, and a fault of the job. -/
def State.ownFault (s : State) (d : Nat) (st : Stop) : State :=
  let s := if st.src = 17 then s.bump (cXlateFault d) 1 else s
  s.contained d { s.runEv (ownRun d []) st.src st.detail with cmd := none, addr := st.addr, akind := st.akind, acc := st.acc } []

/-- A slot of a late window as the stack holds it (R25, R356): the held leaf with its rank and type. Of a slot that reads as poisoned the
module knows only what it has put there (log entry 124). -/
def X.lateSlot (x : X) (w : LateWin) (blk slot : Nat) : X × Option (Nat × ETy × LeafRec) :=
  let r := x.readWords .va (w.va + (w.slotAt blk slot : Nat)) 1 80
  let num (i n : Nat) := leNat (((r.2.1.map (BitVec.ofNat 8)).drop i).take n)
  let leaf (ty : ETy) : LeafRec := ⟨(List.range 32).map (fun i => num (i * ty.size) ty.size), signed 8 (num 64 1), r.2.2⟩
  if r.2.2 then
    let ty := (tileEty w.ety).getD .za32
    (r.1, (w.held.find? (fun h => h.1 == blk && h.2.1 == slot)).map (fun h => (h.2.2.1, ty, leaf ty)))
  else
    let ty := (tileEty (num 65 1)).getD .za32
    (r.1, if num 68 1 = 0 then none else some (num 66 2, ty, leaf ty))

/-- The slots of a block of a late window, in order. -/
def X.lateSlots (x : X) (w : LateWin) (blk : Nat) : X × List (Option (Nat × ETy × LeafRec)) :=
  (List.range w.lateSlots).foldl (fun (a : X × List (Option (Nat × ETy × LeafRec))) k =>
    let r := a.1.lateSlot w blk k
    (r.1, a.2 ++ [r.2])) (x, [])

/-- A late leaf arrives within its window (R356-R358): it takes the block's first free slot, with the poison of its payload units
(Table DI-4), or is dropped. The bytes of a slot count as written (R207). A store that cannot be written drops it too (log entry 94). -/
def State.lateLeaf (s0 : State) (w : LateWin) (blk rank mask : Nat) (l : LeafRec) : State :=
  let v := (s0.ownX (ownRun w.dom w.pages) none).lateSlots w blk
  let w' := { w with absent := w.absent.filter (· != (blk, rank)) }
  let put (s : State) (w' : LateWin) : State := { s with fab := { s.fab with lates := s.fab.lates.map (fun v => if v = w then w' else v) } }
  match (List.range w.lateSlots).find? (fun k => (v.2.getD k none).isNone) with
  | none => put ((v.1.crossed.cledAdd w.dom w.step 8 (-1)).cledAdd w.dom w.step 6 1) w'
  | some k =>
    let bs := lateBytes ((tileEty w.ety).getD .za32) w.ety rank l
    let x := bs.zipIdx.foldl (fun (x : X) b =>
      x.putByte .va (w.va + (w.slotAt blk k + b.2 : Nat)) b.1 (decide (b.2 < 64) && bit mask (b.2 / 16))) v.1
    match x.stop with
    | some st => (put ((x.s.cledAdd w.dom w.step 8 (-1)).cledAdd w.dom w.step 6 1) w').ownFault w.dom st
    | none =>
      let s := x.flush.s.cledAdd w.dom w.step 8 (-1)
      let s := ((s.cledAdd w.dom w.step 4 1).bump (cWrOffered w.dom) 80).bump (cWrDone w.dom) 80
      put s { w' with held := w.held ++ [(blk, k, rank, l)] }

/-- The held leaves that a block of the next step's reduction adds, in ascending rank, as their slots hold them. -/
def X.lateLeaves (x : X) (w : LateWin) (blk : Nat) : X × List (ETy × LeafRec) :=
  let r := ({ x with run := { x.run with pages := w.pages } } : X).lateSlots w blk
  let hs := r.2.filterMap id
  ({ r.1 with run := { r.1.run with pages := x.run.pages } },
    (List.range 1024).flatMap (fun k => (hs.filter (fun h => h.1 == k)).map (·.2)))

/-! ### Closing a block -/

/-- ρ of a block with `p` of N leaves present (R355). -/
def rhoOf (noRescale : Bool) (N p : Nat) : W32 :=
  if noRescale then 0x3F800000#32 else let q := stickyDiv N (max p 1) 0; (round32 q.1 q.2).1

/-- Absent leaves of a block that closes: the step's late window notes them (R354, R358). -/
def State.noteAbsent (s : State) (c : Coll) (r : Run) (blk : Nat) (absent : List Nat) : State :=
  if absent.isEmpty then s
  else
    let mine (w : LateWin) := w.dom == c.dom && w.step == c.stepNo && w.group == c.group && w.seq == c.seq
    let l := dAt r.descs 3
    let add (w : LateWin) : LateWin := { w with absent := w.absent ++ absent.map (fun k => (blk, k)) }
    let ls := if s.fab.lates.any mine then s.fab.lates.map (fun w => if mine w then add w else w)
      else
        let w : LateWin := { dom := c.dom, step := c.stepNo, group := c.group, seq := c.seq, lateSlots := c.lateSlots, absent := [],
                             held := [], va := l.base, pages := r.pages, q := c.q, ety := c.ety }
        s.fab.lates ++ [add w]
    { s with fab := { s.fab with lates := ls } }

/-- The 128-byte record of a reduced block (R352). -/
def blockRecord (ty : ETy) (b : GBlk) : List Byte :=
  padTo 64 (b.elems.flatMap (leBytes ty.size)) ++ leBytes 4 b.g ++ leBytes 4 b.step ++ leBytes 4 b.rho.toNat ++
  leBytes 1 (unsigned 8 b.scale) ++ [BitVec.ofNat 8 (b2n b.ofMark + 2 * b2n (!b.wide) + 4 * b2n b.poison)] ++ List.replicate 50 0#8

/-- A reduced block whose record lies at `va` comes to the network interface (R276, R277, R289, R293): checked, counted, and its record
waits for the feed queue; or it is discarded when STEP_POISON of its step is set. -/
def State.blockArrives (s : State) (b : GBlk) (va : Int) (pages : List Page) : State :=
  let s := s.bump (cUpdArrived b.dom) 1
  let cause := if b.poison then 5 else if b.nan then 1 else if b.ofMark then 2 else 0
  let s := if cause = 0 then s else s.raisePoison b.dom b.step cause
  let dead := match (s.dom b.dom).step with
    | some st => st.poison.isSome || st.number != b.step
    | none => true
  if dead then s.bump (cStepDiscard b.dom) 1
  else ({ s with upd := { s.upd with staged := s.upd.staged ++ [{ dom := b.dom, step := b.step, va, pages }] } } : State).refill

/-- The window whose held leaves a reduction of the next step adds (R356). -/
def State.lateFor (s : State) (c : Coll) (late : Desc) : Option LateWin :=
  s.fab.lates.find? (fun w => w.dom == c.dom && w.step != c.stepNo && decide (0 < c.lateSlots) && w.va == (late.base : Int) &&
    w.lateSlots == c.lateSlots)

/-- Where the record of a block of the own shard lies: at consecutive bytes of the staging area, whatever the descriptor's STRIDE0 (R352;
log entry 125). -/
def recordVa (r : Run) (blk : Nat) : Int := ((dAt r.descs 2).base + 128 * blk : Nat)

/-- The result of a block that its owner closes with the leaves `lv` (R348, R352, R355, R356): record, and what it adds. The held
leaves are of the types that their slots name. -/
def X.stepBlock (x : X) (c : Coll) (blk : Nat) (lv : List (Option LeafRec)) : X × GBlk × List (ETy × LeafRec) :=
  let ty := (tileEty c.ety).getD .zg16
  let la := match x.s.lateFor c (dAt x.run.descs 3) with
    | some w => x.lateLeaves w blk
    | none => (x, [])
  let x := la.1
  let poison := lv.any (fun l => match l with | some l => l.poison | none => false) || la.2.any (·.2.poison)
  let padL := la.2.map some ++ List.replicate (c.lateSlots - la.2.length) none
  let sums := (List.range 32).map (fun i =>
    let a := treeSum ty lv i
    if la.2.isEmpty then a
    else let b := treeOf (padL.map (leafLane i)); let v := addZ a.1 b.1; (v.1, (a.2.or b.2).or v.2))
  let vals := sums.map (fun v => W32.ex v.1)
  let sc := blockScale ty vals
  let els := vals.map (fun v => convTo ty false none (v.scale (-sc)))
  let fl := els.foldl (fun (f : Flags) p => f.or p.2) (sums.foldl (fun (f : Flags) p => f.or p.2) {})
  let rho := rhoOf c.noRescale c.members.length (lv.filter Option.isSome).length
  let base : GBlk := { dom := c.dom, step := c.stepNo, g := (c.gbase + c.rank * c.q + blk) % 2 ^ 32, wide := ty == .zg16,
                       elems := els.map (·.1), scale := sc, ofMark := els.any (·.2.ov), nan := els.any (fun e => (ty.val e.1).isNan),
                       poison, rho }
  let r := if poison then
      (List.range 32).foldl (fun (a : X × GBlk) k =>
        let v := a.1.s.freeWord
        ({ a.1 with s := v.2 }, { a.2 with elems := a.2.elems.set k (v.1.toNat % 2 ^ ty.bits) })) (x, { base with ofMark := false, nan := false })
    else (x.orF fl, base)
  let x := ((blockRecord ty r.2).zipIdx).foldl (fun x p => x.putByte .va (recordVa x.run blk + (p.2 : Nat)) p.1 false) r.1
  ({ x with offered := x.offered + 128, done := x.done + 128 }, r.2, la.2)

/-- Has the collective written λ of its destination? -/
def Coll.wrote (c : Coll) (d : Desc) (l : Nat) : Bool :=
  if c.op = oReduceScatter then c.closed.contains (l / 32)
  else
    let r := l / max 1 (32 * c.q)
    let rank := if c.op = oBroadcast then c.root else r
    if rank = c.rank then (if opReduces c.op then c.closed.contains (l / 32 - c.rank * c.q) else true)
    else c.got.contains (1024 * (l * d.ty.bits / 128) + rank)

/-- Of a list of λ of an ALIAS destination, those whose element a higher λ has already given its value: an arrival out of order leaves
what writes in ascending λ leave (R205). -/
def Coll.under (c : Coll) (d : Desc) (ls : List Nat) : List Nat :=
  if d.injective then []
  else
    let at' (l : Nat) := (d.at l).map d.byteOff
    ls.filter (fun l => (List.range d.count).any (fun k => decide (l < k) && at' k == at' l && c.wrote d k))

/-- The owner closes block `blk` of its shard (R348-R358). A block whose writes end the collective adds nothing more: its leaves have left
the reduction store with the others. -/
def State.closeBlock (s0 : State) (id blk : Nat) : State :=
  let s := s0.seeSram (.leaves id)
  match s.findColl id, s.findRun id with
  | some c, some r =>
    let ty := (tileEty c.ety).getD .za32
    let src := dAt r.descs 0
    let o := (s.collX r).leafAt src c.n (c.rank * c.q + blk)
    let lv := (List.range c.members.length).map (fun k =>
      if k = c.rank then some o.2.1 else Tab.get (fun _ => none) c.leaves (1024 * blk + k))
    let absent := (List.range lv.length).filter (fun k => (lv.getD k none).isNone)
    let hits := (c.mism.filter (· == c.rank * c.q + blk)).length
    let x := { o.1 with s := o.1.s.leafCheck c ty o.2.1 }
    let upd (s : State) : State :=
      let gone := (c.leaves.filter (fun e => decide (e.1 / 1024 = blk))).length
      let s := s.modColl id (fun c => { c with leaves := Tab.dropRange c.leaves (1024 * blk) 1024, closed := blk :: c.closed,
                                               missing := c.missing + absent.length })
      let s := { s with fab := { s.fab with storeFree := s.fab.storeFree + (gone * slotsOf c.ety : Nat) } }
      if hits = 0 then s else s.minor { s.runEv r 8 0 with cls := 1, acc := 6 }
    if 2 ≤ hits then x.s.contained c.dom { s.runEv r 24 0 with acc := 6 } [(id, 0)]
    else if c.isStep then
      let b := x.stepBlock c blk lv
      let s := b.1.settle
      if (s.findColl id).isNone then s
      else
      let s := b.2.2.foldl (fun s l => s.leafCheck c l.1 l.2) s
      let used : Nat := b.2.2.length
      let s := if used = 0 then s else
        { s with fab := { s.fab with lates := s.fab.lates.map (fun w =>
            if w.dom == c.dom && w.step != c.stepNo && w.va == ((dAt r.descs 3).base : Int) then
              { w with used := w.used ++ (w.held.filter (fun h => h.1 == blk)).map (fun h => (blk, h.2.2.1)) }
            else w) } }
      let a : Int := absent.length
      let n : Int := lv.length
      let s := (((s.cledAdd c.dom c.stepNo 1 n).cledAdd c.dom c.stepNo 2 (n - a)).cledAdd c.dom c.stepNo 3 a).cledAdd c.dom c.stepNo 8 a
      let s := (s.cledAdd c.dom c.stepNo 9 1).countClosed c.dom c.stepNo
      (upd (s.noteAbsent c r blk absent)).blockArrives b.2.1 (recordVa r blk) r.pages
    else
      let bad := lv.any (fun l => match l with | some l => l.poison | none => false)
      let sums := (List.range 32).map (treeSum ty lv)
      let fl := sums.foldl (fun (f : Flags) p => f.or p.2) {}
      let d := dAt r.descs 1
      let base := if c.op = oAllReduce then shardLo c.n c.q c.rank + 32 * blk else 32 * blk
      let left := shardHi c.n c.q c.rank - shardLo c.n c.q c.rank - 32 * blk
      let f (x : X) (l : Nat) : X × Ex × Bool := (x, W32.ex (sums.getD (l - base) (0#32, {})).1, bad)
      let x := { x with under := c.under d (rangeFrom base (min 32 left)) }
      let x := X.convEls f d false none 0 (rangeFrom base (min 32 left)) [] (if bad then x else x.orF fl)
      let x := if bad && x.pw.isEmpty then x.addPw (2 ^ 61 + blk) else x
      let s := x.settle
      if (s.findColl id).isNone then s else upd s
  | _, _ => s

/-- Blocks of the own shard that can close now: every leaf of the ranks that are not late is present (R354). -/
def Coll.closable (c : Coll) (blk : Nat) : Bool :=
  !c.closed.contains blk &&
  (List.range c.members.length).all (fun k => k == c.rank || (c.expired && c.late.contains k) ||
    (Tab.get (fun _ => none) c.leaves (1024 * blk + k)).isSome)

/-- Close a list of blocks in turn. -/
def State.closeAll (s : State) (id : Nat) (bs : List Nat) : State := bs.foldl (fun s b => s.closeBlock id b) s

/-! ### Windows -/

/-- The event of a packet that contradicts (R335): the Chaug port that received it. -/
def State.mismatchPkt (s : State) (p d : Nat) : State :=
  (s.bump (cCfMismatch d) 1).contained d { cls := 2, src := 24, mkind := 4, mid := p, acc := 8 } []

/-- Does a WINDOW contradict the collective (R335, R353): no reduction, no member that owns a shard, a limit past the shard? -/
def Coll.badWindow (c : Coll) (src lim : Nat) : Bool :=
  let r := c.members.idxOf src
  !opReduces c.op || decide (c.members.length ≤ r) || r == c.rank || decide (shardBlocks c.n c.q r < lim)

/-- A WINDOW comes to a standing collective (R335, R353): the limit of a contributor towards the owner of a shard, or a contradiction. -/
def State.windowIn (s : State) (p src lim : Nat) (c : Coll) : State :=
  if c.badWindow src lim then s.mismatchPkt p c.dom
  else s.modColl c.id (fun c => { c with limit := modAt c.limit (c.members.idxOf src) (fun _ => lim) })

/-- A GRANT names a burst of a BROADCAST that had none at that receiver yet (R360). -/
def Coll.granted1 (c : Coll) (src burst ep lim : Nat) : Coll :=
  let k := c.members.idxOf src
  { c with limit := modAt c.limit k (fun _ => lim), grants := modAt c.grants k (fun _ => some (burst, ep)) }

/-- Limits that came before the collective stood (R353, R360): a WINDOW is held to R335 now that the collective is known. -/
def State.takeEarly (s : State) (id : Nat) : State :=
  match s.findColl id with
  | none => s
  | some c =>
    let mine (w : Nat × Nat × Nat × Nat × Nat) : Bool :=
      if c.toStream then c.rank == c.root && w.1 == 64 + c.stream && c.members.contains w.2.2.2.1 else w.1 == c.group && w.2.1 == c.seq
    let ws := s.fab.early.filter mine
    let s := { s with fab := { s.fab with early := s.fab.early.filter (fun w => !mine w) } }
    ws.foldl (fun s w => match s.findColl id with
      | none => s
      | some c =>
        if c.toStream then s.modColl id (fun c => c.granted1 w.2.2.2.1 w.2.1 w.2.2.1 w.2.2.2.2)
        else s.windowIn w.2.2.1 w.2.2.2.1 w.2.2.2.2 c) s

/-- The window of a reduction in blocks (R353; log entry 53). -/
def State.collWindow (s : State) (c : Coll) : Nat :=
  max 1 (262144 / (max 1 s.fab.standing * max 1 c.members.length))

/-- Send to every other member of a collective. -/
def State.toOthers (s : State) (c : Coll) (f : Nat → Pkt) : State :=
  c.members.foldl (fun s m => if m = s.member then s else s.send (f m)) s

/-- Grant the contributors what the window allows beyond the blocks closed (R353). -/
def State.grantWindows (s : State) (id : Nat) : State :=
  match s.findColl id with
  | none => s
  | some c =>
    let nb := shardBlocks c.n c.q c.rank
    let low := ((List.range nb).find? (fun b => !c.closed.contains b)).getD nb
    let lim := min nb (low + s.collWindow c)
    if opReduces c.op && decide (c.granted < lim) then
      (s.modColl id (fun c => { c with granted := lim })).toOthers c (fun m =>
        { kind := .window, vc := 0, src := s.member, dst := m, f := [c.group, c.seq, lim] })
    else s

/-! ### Completion -/

/-- A packet of this collective. -/
def Coll.owns (c : Coll) (k : Pkt) : Bool :=
  match k.kind with
  | .leaf | .gather => k.f.getD 0 0 == c.group && k.f.getD 1 0 == c.seq
  | .stream => c.rank == c.root && c.ofBurst k
  | _ => false

/-- A packet that a collective sends: its data, and the limits that it grants (R353, R360). -/
def Coll.sends (c : Coll) (k : Pkt) : Bool :=
  c.owns k || (match k.kind with
    | .window => !c.toStream && k.f.getD 0 0 == c.group && k.f.getD 1 0 == c.seq
    | .grant => c.toStream && c.rank != c.root && k.f.getD 0 0 == c.stream && k.f.getD 1 0 == c.await
    | _ => false)

/-- Packets of a collective that wait or are not acknowledged. -/
def State.unacked (s : State) (c : Coll) : Bool :=
  s.fab.waiting.any c.owns ||
  (List.range 18).any (fun p => (s.port p).sendq.any c.owns || (s.port p).retry.any (fun r => r.2.any c.owns))

/-- Units that the member itself sends to each other rank in a gather or a broadcast; 0 for a receiver. -/
def Coll.ownUnits (c : Coll) (src : Desc) (dst : Desc) : Nat :=
  if opGathers c.op then
    let d := if c.op = oAllReduce then dst else src
    let g := c.range c.rank
    partUnits (unitRuns d.ty d.bscaled c.n g.1 g.2)
  else if c.op = oBroadcast ∧ c.rank = c.root then
    if c.toStream then elUnits src.ty c.n else partUnits (unitRuns src.ty src.bscaled c.n 0 c.n)
  else 0

/-- Units that arrive from the other ranks. -/
def Coll.units (c : Coll) (d : Desc) : Nat :=
  ((List.range c.members.length).map (fun r =>
    if r = c.rank then 0 else let g := c.range r; partUnits (unitRuns d.ty d.bscaled c.n g.1 g.2))).sum

/-- All own blocks of a reduction are closed. -/
def Coll.allClosed (c : Coll) : Bool := !opReduces c.op || c.closed.length == shardBlocks c.n c.q c.rank

/-- Does a 16-bit number lie after another, modulo 65,536? -/
def seqPast (a b : Nat) : Bool := decide (1 ≤ (a + 65536 - b % 65536) % 65536 ∧ (a + 65536 - b % 65536) % 65536 < 32768)

/-- The bursts that a sender has sent whole (R360): a GRANT of one of them comes late. -/
def State.sentBursts (s : State) (c : Coll) : State :=
  if c.toStream && c.rank == c.root then
    let es := (c.members.zip c.grants).filterMap (fun (g : Nat × Option (Nat × Nat)) =>
      g.2.map (fun b => ((c.stream, g.1, b.2, b.1) : Nat × Nat × Nat × Nat)))
    { s with fab := { s.fab with sent := s.fab.sent.filter (fun w => !es.any (fun v => v.1 == w.1 && v.2.1 == w.2.1)) ++ es } }
  else s

/-- Has a burst that a GRANT names been sent whole, or an earlier one been followed by it? -/
def State.burstSent (s : State) (n m ep burst : Nat) : Bool :=
  s.fab.sent.any (fun w => w.1 == n && w.2.1 == m && w.2.2.1 == ep && (w.2.2.2 == burst || seqPast w.2.2.2 burst))

/-- The collective completes when its sends are acknowledged and its receives complete (R347). -/
def State.collDone (s : State) (id : Nat) : State :=
  match s.findColl id, s.findRun id with
  | some c, some r =>
    let N := c.members.length
    let src := dAt r.descs 0
    let dst := dAt r.descs 1
    let others := (List.range N).filter (· != c.rank)
    let sent := others.all (fun k => (!opReduces c.op || decide (shardBlocks c.n c.q k ≤ c.next.getD k 0)) &&
      decide (c.ownUnits src dst ≤ c.gnext.getD k 0))
    let received := c.allClosed &&
      (if c.op = oReduceScatter then true
       else if c.toStream then c.rank == c.root || seqPast (s.stream c.stream).burst c.await
       else c.got.length == c.units dst)
    if sent && received && !s.unacked c then
      let res := if c.isStep then { r.res with result := BitVec.ofNat 64 (satN 32 c.missing + c.late.length % 1024 * 2 ^ 32) } else r.res
      (s.sentBursts c).collEnds id { res with status := if res.poison = 0 then 0 else 2, aliased := r.aliased }
    else s
  | _, _ => s

/-! ### Gathered bytes -/

/-- The 16 bytes of unit `u` of a tensor of n elements, of which descriptor `d` holds those from `off` on and the range
`lo` - `hi` counts. -/
def X.unitAt (x : X) (d : Desc) (n off lo hi u : Nat) : X × List Byte × Bool :=
  let e0 := elUnits d.ty n
  if u < e0 then
    let per := 128 / d.ty.bits
    let r := (List.range per).foldl (fun (a : X × Nat × Bool) i =>
      let l := u * per + i
      if lo ≤ l ∧ l < hi then
        let v := a.1.pat d 1 (l - off)
        (v.1, a.2.1 + v.2.1 % 2 ^ d.ty.bits * 2 ^ (d.ty.bits * i), a.2.2 || v.2.2)
      else a) (x, 0, false)
    (r.1, leBytes 16 r.2.1, r.2.2)
  else
    let pb := d.auxPlace x.tile
    let r := (List.range 16).foldl (fun (a : X × Nat × Bool) i =>
      let b := (u - e0) * 16 + i
      if lo / 32 ≤ b ∧ b < ceilDiv hi 32 then
        let v := a.1.read pb.1 1 (pb.2 + (b - off / 32 : Nat)) 1
        (v.1, a.2.1 + v.2.1 * 2 ^ (8 * i), a.2.2 || v.2.2)
      else a) (x, 0, false)
    (r.1, leBytes 16 r.2.1, r.2.2)

/-- Write unit `u` into the destination, within the range of its sender. -/
def X.putUnit (x : X) (d : Desc) (n lo hi u : Nat) (bs : List Byte) (p : Bool) : X :=
  let e0 := elUnits d.ty n
  let v := leNat bs
  if u < e0 then
    let per := 128 / d.ty.bits
    (List.range per).foldl (fun x i =>
      let l := u * per + i
      if lo ≤ l ∧ l < hi then x.put d l (v / 2 ^ (d.ty.bits * i) % 2 ^ d.ty.bits) p else x) x
  else
    (List.range 16).foldl (fun x i =>
      let b := (u - e0) * 16 + i
      if lo / 32 ≤ b ∧ b < ceilDiv hi 32 then x.putScale d b (signed 8 (v / 2 ^ (8 * i))) p else x) x

/-- The own part of ALL_GATHER and of the root of BROADCAST goes to the own destination (R350). -/
def X.copyOwn (x : X) (c : Coll) : X :=
  let src := dAt x.run.descs 0
  let dst := dAt x.run.descs 1
  let g := c.range c.rank
  let p := unitRuns dst.ty dst.bscaled c.n g.1 g.2
  (List.range (partUnits p)).foldl (fun x i =>
    let u := partUnit p i
    let r := x.unitAt src c.n g.1 g.1 g.2 u
    r.1.putUnit dst c.n g.1 g.2 u r.2.1 r.2.2) x

/-! ### Set-up -/

/-- Receivers of a stream that stand and whose burst has not closed: each takes one burst, in the order of admission. -/
def State.receivers (s : State) (n : Nat) : Nat :=
  (s.fab.colls.filter (fun c => c.toStream && c.stream == n && c.rank != c.root && !seqPast (s.stream n).burst c.await)).length

/-- The record of a standing collective: `snap` holds the sequence number taken at admission (R335). -/
def State.collOf (s : State) (r : Run) (e : Env) : Coll :=
  let c := r.cmd
  let ms := s.groupMembers c.group
  let N := ms.length
  let n := if c.toStream ∧ !dHas r.descs 0 then 0 else collCount c r.descs
  { id := c.id, op := c.opcode, group := c.group, seq := r.snap.getD 0 0, dom := c.dom, epoch := s.rf (rCgroupCtl c.group) 47 32,
    members := ms, rank := ms.idxOf s.member, isStep := c.ofStep, stepNo := s.rf (rStepNumber c.dom) 31 0,
    noRescale := fbit (c.op 1) 7, lateSlots := if c.ofStep then c.lateSlots else 0, root := c.root, toStream := c.toStream, stream := c.dstStream,
    gbase := c.gBase, n, ety := etyTile (leafTy (dAt r.descs 0)), q := shardQ n N, deadline := r.frame + c.dlFrames,
    next := List.replicate N 0, limit := List.replicate N 0, gnext := List.replicate N 0, mism := (e.faults.filter (fun f => f.stage != 3 && f.stage != 7)).map (·.row),
    grants := List.replicate N none, await := ((s.stream c.dstStream).burst + s.receivers c.dstStream) % 65536 }

/-! ### Receive streams: grants (R360) -/

/-- The open burst of a stream has a receiver that stands: its sender is known, and hears of the ring's room (R360). -/
def State.openBurst (s : State) (n : Nat) : State :=
  match s.fab.colls.find? (fun c => c.toStream && c.stream == n && c.rank != c.root && c.await == (s.stream n).burst) with
  | some c => (s.modStream n (fun t => { t with sender := c.members.getD c.root 0, known := true })).grantStream n
  | none => s

/-- A stream's burst is given up (R362): its epoch advances and its ring is free. -/
def State.resetStream (s : State) (n : Nat) : State :=
  let s := s.setRf (rStreamEpoch n) 15 0 ((s.rf (rStreamEpoch n) 15 0 + 1) % 65536)
  let s := s.setReg (rStreamBytes n) 0#64
  s.modStream n (fun t => { burst := (t.burst + 1) % 65536, free := s.streamRing n })

/-- The set-up of an admitted collective: it stands from now on (R347). -/
def State.collSetup (s0 : State) (r : Run) (e : Env) : State :=
  let s := (s0.upsets e).crossings e
  let id := r.cmd.id
  let c := s.collOf r e
  let s := { s with fab := { s.fab with colls := s.fab.colls ++ [c] } }
  let s := s.modRun id (fun r => { r with st := .standing })
  let r := { r with st := .standing }
  let s := s.takeEarly id
  if (s.findColl id).isNone then s
  else
  let s := if c.op = oAllGather ∨ (c.op = oBroadcast ∧ c.rank = c.root ∧ !c.toStream) then ((s.collX r).copyOwn c).settle else s
  let s := if c.op = oBroadcast ∧ c.toStream ∧ c.rank ≠ c.root then s.openBurst c.stream else s
  let s := if opReduces c.op then
      (s.closeAll id ((List.range (shardBlocks c.n c.q c.rank)).filter c.closable)).grantWindows id
    else s
  s.collDone id

/-- An execution row of a collective: its set-up. -/
def State.collRun (s : State) (id op : Nat) (e : Env) : State :=
  match s.findRun id with
  | some r0 =>
    if r0.cmd.opcode = op ∧ r0.st = .admitted ∧ !s.flt.fatal then
      let s := (s.seeSram (.queue id)).useFd [.netif]
      match s.findRun id with
      | some r => (s.fdResidue r e).getD (s.collSetup r e)
      | none => s
    else s
  | none => s

def execReduceScatter (id : Nat) (e : Env) (s : State) : Host.Outcome State Fault Refusal := .next (s.collRun id oReduceScatter e)
def execAllGather (id : Nat) (e : Env) (s : State) : Host.Outcome State Fault Refusal := .next (s.collRun id oAllGather e)
def execAllReduce (id : Nat) (e : Env) (s : State) : Host.Outcome State Fault Refusal := .next (s.collRun id oAllReduce e)
def execBroadcast (id : Nat) (e : Env) (s : State) : Host.Outcome State Fault Refusal := .next (s.collRun id oBroadcast e)

/-! ### Bursts -/

/-- What a burst has gathered: context, collective, packets (newest first), flits filled, room in the last. -/
structure Burst where
  x : X
  c : Coll
  pkts : List Pkt := []
  flits : Nat := 0
  room : Nat := 0
deriving DecidableEq, Repr

/-- Put a packet into the burst's flits (R328, R347: at most 256). -/
def Burst.add (b : Burst) (k : Pkt) : Option Burst :=
  if k.units ≤ b.room then some { b with pkts := k :: b.pkts, room := b.room - k.units }
  else if b.flits < 256 then some { b with pkts := k :: b.pkts, flits := b.flits + 1, room := 15 - k.units }
  else none

/-- Payload units from own unit `i` on that fit one packet: consecutive units of one run, at most 14, below `lim`. -/
def runLen (p : (Nat × Nat) × (Nat × Nat)) (i lim : Nat) : Nat :=
  let stop := if i < p.1.2 then p.1.2 else p.1.2 + p.2.2
  min 14 (min stop lim - i)

/-- The next packet for a rank, if one can be sent now, and the collective after it. -/
def Burst.next (b : Burst) (s : State) (k : Nat) : Option (Pkt × X × Coll) :=
  let c := b.c
  let src := dAt b.x.run.descs 0
  let dst := dAt b.x.run.descs 1
  let m := c.members.getD k 0
  let j := c.next.getD k 0
  if opReduces c.op && decide (j < min (c.limit.getD k 0) (shardBlocks c.n c.q k)) then
    let l := b.x.leafAt src c.n (k * c.q + j)
    let ty := leafTy src
    some ({ kind := .leaf, vc := if c.isStep then 1 else 2, src := s.member, dst := m, epoch := c.epoch, pmask := l.2.2,
            f := [c.group, c.seq, j, unsigned 8 l.2.1.scale, c.ety], data := l.2.1.elems.flatMap (leBytes ty.size) },
      l.1, { c with next := modAt c.next k (· + 1) })
  else
    let i := c.gnext.getD k 0
    let own := c.ownUnits src dst
    let d := if c.op = oAllReduce then dst else src
    let g := c.range c.rank
    let off := if c.op = oAllGather then g.1 else 0
    let p := if c.toStream then ((0, own), (0, 0)) else unitRuns d.ty d.bscaled c.n g.1 g.2
    let lim := if c.toStream then (if (c.grants.getD k none).isSome then min own (c.limit.getD k 0) else 0) else own
    let n := runLen p i lim
    if n = 0 || !c.allClosed then none
    else
      let r := (List.range n).foldl (fun (a : X × List Byte × Nat) w =>
        let v := a.1.unitAt d c.n off g.1 g.2 (partUnit p (i + w))
        (v.1, a.2.1 ++ v.2.1, if v.2.2 then a.2.2 + 2 ^ w else a.2.2)) (b.x, [], 0)
      let u := partUnit p i
      let c' := { c with gnext := modAt c.gnext k (· + n) }
      if c.toStream then
        let gr := (c.grants.getD k none).getD (0, 0)
        let last := decide (i + n = own)
        let tail := if last then (c.n * d.ty.bits + 7) / 8 % 16 else 0
        some ({ kind := .stream, vc := if s.rb (rStreamCfg c.stream) 15 then 6 else 5, src := s.member, dst := m, epoch := gr.2,
                pmask := r.2.2, f := [c.stream, gr.1, u, b2n last, tail], data := r.2.1 }, r.1, c')
      else
        some ({ kind := .gather, vc := if c.op = oBroadcast then 4 else 3, src := s.member, dst := m, epoch := c.epoch,
                pmask := r.2.2, f := [c.group, c.seq, u], data := r.2.1 }, r.1, c')

/-- A packet that stands for all data of a collective to a rank: its route is theirs (R333). -/
def Coll.proto (c : Coll) (k : Nat) : Pkt :=
  if c.toStream then { kind := .stream, vc := 5, src := 0, dst := c.members.getD k 0, f := [c.stream] }
  else { kind := .leaf, vc := 2, src := 0, dst := c.members.getD k 0, f := [c.group, c.seq] }

/-- Fill a burst with what can go to the ranks behind a port, lowest rank first. -/
def Burst.fill (s : State) (ranks : List Nat) : Nat → Burst → Burst
  | 0, b => b
  | f + 1, b =>
    match ranks.findSome? (fun k => (b.next s k)) with
    | none => b
    | some (k, x, c) =>
      match b.add k with
      | none => b
      | some b' => Burst.fill s ranks f { b' with x, c }

/-- Does a link burst stand that the Damper would grant now (R48): a collective with a packet that can be sent? -/
def State.linkAsks (s : State) : Bool :=
  s.frame.damper.grants .link 3 && s.fab.colls.any (fun c =>
    match s.findRun c.id with
    | some r => (List.range c.members.length).any (fun k => k != c.rank && (s.portFor (c.proto k)).isSome &&
        (Burst.next { x := s.collX r, c } s k).isSome)
    | none => false)

/-- COLLECTIVE_BURST (R347): 3 link tokens, then at most 256 flits of the collective on one port. -/
def execCollectiveBurst (id port : Nat) (e : Env) (s0 : State) : Host.Outcome State Fault Refusal :=
  let s := s0.useFd [.damper, .netif]
  match s.findColl id, s.findRun id with
  | some c, some r =>
    if s.flt.fatal ∨ s.inGuard ∨ !s.frame.damper.grants .link 3 then .next s
    else
      let s := (s.upsets e).crossings e
      let ranks := (List.range c.members.length).filter (fun k => k != c.rank && s.portFor (c.proto k) == some port)
      let b := Burst.fill s ranks 1280 { x := s.collX r, c }
      if b.pkts.isEmpty then .next s
      else
        let x := b.x
        let s := (x.settle).grant .link 3
        match s.findColl id with
        | none => .next s
        | some _ =>
          let s := s.modColl id (fun v => { v with next := b.c.next, gnext := b.c.gnext })
          .next ((b.pkts.reverse.foldl State.send s).collDone id)
  | _, _ => .next s

/-- The blocks of the own shard that are open: below the limit granted (Table CF-8) and not closed. -/
def Coll.openBlocks (c : Coll) : List Nat :=
  (List.range (shardBlocks c.n c.q c.rank)).filter (fun b => decide (b < c.granted) && !c.closed.contains b)

/-- Close every block that can close (R354). -/
def State.closeReady (s : State) (id : Nat) : State :=
  match s.findColl id with
  | some c => s.closeAll id ((List.range (shardBlocks c.n c.q c.rank)).filter c.closable)
  | none => s

/-- REDUCTION_DEADLINE (R354): open blocks close with the leaves present, the ranks that are missing become late, and blocks
that lack leaves of late ranks only close as well. -/
def execReductionDeadline (id : Nat) (s0 : State) : Host.Outcome State Fault Refusal :=
  match s0.findColl id with
  | none => .next s0
  | some c =>
    let s := s0.useFd [.netif]
    if !c.isStep ∨ c.expired ∨ s.frameNo < c.deadline ∨ s.flt.fatal then .next s
    else
      let bs := c.openBlocks
      let late := (List.range c.members.length).filter (fun k => k != c.rank &&
        bs.any (fun b => (Tab.get (fun _ => none) c.leaves (1024 * b + k)).isNone))
      let s := s.modColl id (fun c => { c with expired := true, late })
      .next ((((s.closeAll id bs).closeReady id).grantWindows id).collDone id)

end Sys2Proof.Machine
end

