-- ==== Sys2Proof/Machine/Fabric.lean ====
section
/-!
DEFINITION. What a link brings in (12_chaug_fabric): flits, packets, control flits (R322-R344), the data of collectives and
streams (R351-R363), ports going down and up, the stokes of a range (R336-R341, R464).
-/
namespace Sys2Proof.Machine

/-! ### Receive buffers -/

/-- The oldest packet of a channel in a port's receive buffer. -/
def State.rxHead (s : State) (p v : Nat) : Option Pkt := (s.port p).rx.find? (fun k => k.vc == v)

/-- A packet leaves the receive buffer and its credits return (R326); none for a packet that came before the link went
down. -/
def State.takeRx (s : State) (p : Nat) (k : Pkt) : State :=
  let t := s.port p
  let i := t.rx.idxOf k
  let t' := { t with rx := t.rx.eraseIdx i, oldRx := if i < t.oldRx then t.oldRx - 1 else t.oldRx }.room k.vc k.units
  if i < t.oldRx then s.modPort p (fun _ => t')
  else (s.modPort p (fun _ => t'.give k.vc k.units)).pump p

/-- A packet row: the oldest packet of the channel, if it is of the row's type. A packet for another member is malformed
(log entry 40); after a Fatal fault packets are dropped (R423). -/
def State.onPacket (s0 : State) (p v : Nat) (kind : PKind) (f : State → Pkt → State) : State :=
  let s := (s0.seeSram (.port p)).useFd [.netif]
  match s.rxHead p v with
  | none => s
  | some k =>
    if k.kind ≠ kind then s
    else
      let t := s.takeRx p k
      if s.flt.fatal then t
      else if k.dst ≠ s.member then t.bump cCfBad 1
      else f t k

/-- A stale packet (R357, R363). -/
def State.stalePkt (s : State) (d : Nat) : State := s.bump (cCfStale d) 1

def State.groupDom (s : State) (g : Nat) : Nat := s.rf (rCgroupCtl g) 7 0

/-- Does a packet carry the epoch of its enabled group (R357)? -/
def State.groupLive (s : State) (g ep : Nat) : Bool := s.rb (rCgroupCtl g) 24 && s.rf (rCgroupCtl g) 47 32 == ep

/-- The standing collective of a group and sequence number. -/
def State.collAt (s : State) (g seq : Nat) : Option Coll := s.fab.colls.find? (fun c => c.group == g && c.seq == seq)

/-- The elements, scale and poison of a LEAF packet. -/
def Pkt.leafOf (k : Pkt) (ty : ETy) : LeafRec :=
  ⟨(List.range 32).map (fun i => leNat ((k.data.drop (i * ty.size)).take ty.size)), signed 8 (k.f.getD 3 0), k.pmask != 0⟩

/-- Has the module yet to admit the collective of a sequence number (R335)? -/
def State.seqAhead (s : State) (g seq : Nat) : Bool := decide ((seq + 65536 - s.rf (rCgroupSeq g) 15 0) % 65536 < 32768)

/-! ### Leaves (R348-R358) -/

/-- A leaf comes to a standing reduction. -/
def State.leafIn (s : State) (p : Nat) (k : Pkt) (c : Coll) : State :=
  let blk := k.f.getD 2 0
  let rank := c.members.idxOf k.src
  let ty := (tileEty c.ety).getD .za32
  let l := k.leafOf ty
  if !opReduces c.op || decide (c.members.length ≤ rank) || rank == c.rank || decide (shardBlocks c.n c.q c.rank ≤ blk) ||
      k.f.getD 4 0 != c.ety || k.data.length != 32 * ty.size then s.mismatchPkt p c.dom
  else if c.closed.contains blk then
    match s.fab.lates.find? (fun w => w.dom == c.dom && w.group == c.group && w.seq == c.seq && w.absent.contains (blk, rank)) with
    | some w => (s.lateLeaf w blk rank k.pmask l).heard c.id
    | none => s.bump cCfDup 1
  else if (Tab.get (fun _ => none) c.leaves (1024 * blk + rank)).isSome then s.bump cCfDup 1
  else
    let s := s.modColl c.id (fun c => { c with leaves := Tab.set (fun _ => none) c.leaves (1024 * blk + rank) (some l) })
    let s := { s with fab := { s.fab with storeFree := s.fab.storeFree - (slotsOf c.ety : Nat) } }
    let s := (s.heard c.id).leafCheck c ty l
    match s.findColl c.id with
    | some c => ((if c.closable blk then s.closeBlock c.id blk else s).grantWindows c.id).collDone c.id
    | none => s

/-- LEAF (R351, R357): to its standing reduction; a late leaf to its window; anything else is stale. -/
def State.leafPkt (s : State) (p : Nat) (k : Pkt) : State :=
  let g := k.f.getD 0 0
  let seq := k.f.getD 1 0
  let blk := k.f.getD 2 0
  let d := s.groupDom g
  if !s.groupLive g k.epoch then s.stalePkt d
  else match s.collAt g seq with
    | some c => s.leafIn p k c
    | none =>
      let rank := (s.groupList g).idxOf k.src
      match s.fab.lates.find? (fun w => w.dom == d && w.group == g && w.seq == seq && w.absent.contains (blk, rank)) with
      | some w =>
        let ty := (tileEty w.ety).getD .za32
        if k.f.getD 4 0 ≠ w.ety ∨ k.data.length ≠ 32 * ty.size then s.mismatchPkt p d
        else s.lateLeaf w blk rank k.pmask (k.leafOf ty)
      | none => s.stalePkt d

def execLeaf (p v : Nat) (s : State) : Host.Outcome State Fault Refusal := .next (s.onPacket p v .leaf (fun s k => s.leafPkt p k))

/-! ### Gathered data (R350) -/

/-- The units of a GATHER packet of a rank go to the destination, from unit `u0` on; in an ALIAS destination those whose element a higher λ has
given its value stay under it (R205, R350). -/
def X.putUnits (x : X) (c : Coll) (dst : Desc) (rank u0 : Nat) (data : List Byte) (pmask : Nat) : X :=
  let g := c.range rank
  let per := 128 / dst.ty.bits
  (List.range (data.length / 16)).foldl (fun (x : X) i =>
    let u := u0 + i
    let ls := if u < elUnits dst.ty c.n then (rangeFrom (u * per) per).filter (fun l => decide (l < c.n)) else []
    { x with under := c.under dst ls }.putUnit dst c.n g.1 g.2 u ((data.drop (16 * i)).take 16) (bit pmask i)) x

/-- GATHER data comes to a standing collective (R329). -/
def State.gatherIn (s : State) (p : Nat) (k : Pkt) (c : Coll) (r : Run) : State :=
  let u0 := k.f.getD 2 0
  let m := k.data.length / 16
  let rank := c.members.idxOf k.src
  let dst := dAt r.descs 1
  let g := c.range rank
  let part := unitRuns dst.ty dst.bscaled c.n g.1 g.2
  let us := rangeFrom u0 m
  if c.toStream || opReduces c.op && !opGathers c.op || decide (c.members.length ≤ rank) || rank == c.rank || m == 0 ||
      !us.all (partHas part) then s.mismatchPkt p c.dom
  else if us.any (fun u => c.got.contains (1024 * u + rank)) then s.bump cCfDup 1
  else
    let x := (s.collX r).putUnits c dst rank u0 k.data k.pmask
    let s := x.settle.modColl c.id (fun c => { c with got := us.map (fun u => 1024 * u + rank) ++ c.got })
    (s.heard c.id).collDone c.id

/-- GATHER (R329, R350): data of a collective that has ended here is a duplicate (log entry 95). -/
def State.gatherPkt (s : State) (p : Nat) (k : Pkt) : State :=
  let g := k.f.getD 0 0
  if !s.groupLive g k.epoch then s.stalePkt (s.groupDom g)
  else match s.collAt g (k.f.getD 1 0) with
    | some c => match s.findRun c.id with
      | some r => s.gatherIn p k c r
      | none => s
    | none => s.bump cCfDup 1

/-- GATHER_PACKET (R329): data of a collective that this module has yet to admit waits in the receive buffer. -/
def execGatherPacket (p v : Nat) (s : State) : Host.Outcome State Fault Refusal :=
  .next (match s.rxHead p v with
    | some k =>
      let g := k.f.getD 0 0
      if k.kind = .gather ∧ k.dst = s.member ∧ s.groupLive g k.epoch ∧ s.seqAhead g (k.f.getD 1 0) ∧ !s.flt.fatal then s
      else s.onPacket p v .gather (fun s k => s.gatherPkt p k)
    | none => s)

/-! ### Streams (R359-R363) -/

/-- The consumers of a stream hear from it (R362). -/
def State.heardStream (s : State) (n : Nat) : State :=
  s.setRuns (s.runs.map (fun r => if r.streams.any (fun m => m.1 == n) then { r with arrived := true } else r))

/-- Write bytes of a stream from a stream position on into its ring. -/
def State.ringBytes (s : State) (d n pos : Nat) (bs : List (Byte × Bool)) : State :=
  let c := rStreamCfg n
  let base := (48 * s.rf c 8 8 + s.rf c 14 9) * tileBytes + s.rf c 34 24 * 4096
  let buf := (bs.zipIdx).foldl (fun t b => Tab.set bufReset t (locTile (base + (pos + b.2) % s.streamRing n)) (some b.1)) []
  ({ s, e := {}, run := ownRun d [], tile := none, buf } : X).flush.s

/-- Every unit of the open burst is here: the next burst number opens (R360). -/
def State.closeBurst (s : State) (n : Nat) : State :=
  let t := s.stream n
  match t.total with
  | some b =>
    if t.got.length < ceilDiv b 16 then s
    else
      let s := s.modStream n (fun t => { t with burst := (t.burst + 1) % 65536, base := t.base + b, got := [], total := none,
                                                free := t.free + 16 * t.limit - b, limit := 0, known := false })
      let s := s.openBurst n
      (s.fab.colls.filter (fun c => c.toStream && c.stream == n)).foldl (fun s c => s.collDone c.id) s
  | none => s

/-- STREAM (R360, R363). -/
def State.streamPkt (s : State) (p : Nat) (k : Pkt) : State :=
  let n := k.f.getD 0 0
  let burst := k.f.getD 1 0
  let off := k.f.getD 2 0
  let last := k.f.getD 3 0 == 1
  let tail := k.f.getD 4 0
  let m := k.data.length / 16
  let t := s.stream n
  let d := s.rf (rStreamCfg n) 7 0
  let ep := s.rf (rStreamEpoch n) 15 0
  let size := 16 * (m - 1) + (if last && tail != 0 then tail else 16)
  if ep ≠ k.epoch then
    (s.stalePkt d).send
      { kind := .grant, vc := 0, src := s.member, dst := k.src, epoch := ep, f := [n, t.burst, if t.known && t.sender == k.src then t.limit else 0] }
  else if !s.rb (rStreamCfg n) 16 then s.stalePkt d
  else if seqPast t.burst burst then s.bump cCfDup 1
  else if burst ≠ t.burst ∨ !t.known ∨ k.src ≠ t.sender ∨ m = 0 ∨ t.limit < off + m then s.mismatchPkt p d
  else if (rangeFrom off m).any (fun u => t.got.contains u) then s.bump cCfDup 1
  else
    let bs := (k.data.take size).zipIdx.map (fun b => (b.1, bit k.pmask (b.2 / 16)))
    let s := s.ringBytes d n (t.base + 16 * off) bs
    let s := s.modStream n (fun t => { t with got := t.got ++ rangeFrom off m,
                                              total := if last then some (16 * off + size) else t.total })
    let s := s.setReg (rStreamBytes n) (BitVec.ofNat 64 ((s.reg (rStreamBytes n)).toNat + size))
    let s := (s.fab.colls.filter (fun c => c.toStream && c.stream == n && c.rank != c.root && c.await == t.burst)).foldl
      (fun s c => s.heard c.id) (s.heardStream n)
    s.closeBurst n

def execStreamPacket (p v : Nat) (s : State) : Host.Outcome State Fault Refusal :=
  .next (s.onPacket p v .stream (fun s k => s.streamPkt p k))

/-! ### Control packets -/

/-- Keep a limit that came before its collective stands here: the newest of a sender for a collective, or for a stream. -/
def State.keepEarly (s : State) (key num ep src lim : Nat) : State :=
  { s with fab := { s.fab with
      early := s.fab.early.filter (fun w => !(w.1 == key && (w.2.1 == num || decide (64 ≤ key)) && w.2.2.2.1 == src))
        ++ [(key, num, ep, src, lim)] } }

/-- WINDOW (R353): the limit of a contributor towards the owner of a shard; one that comes before its collective stands waits for it. -/
def State.windowPkt (s : State) (p : Nat) (k : Pkt) : State :=
  let g := k.f.getD 0 0
  let seq := k.f.getD 1 0
  let lim := k.f.getD 2 0
  match s.collAt g seq with
  | some c => (s.windowIn p k.src lim c).heard c.id
  | none => if s.rb (rCgroupCtl g) 24 && s.seqAhead g seq then s.keepEarly g seq p k.src lim else s

def execWindow (p v : Nat) (s : State) : Host.Outcome State Fault Refusal :=
  .next (s.onPacket p v .window (fun s k => s.windowPkt p k))

/-- The BROADCASTs of this module into a stream of a member, in the order of their admission (R360). -/
def State.sendersTo (s : State) (n m : Nat) : List Coll :=
  s.fab.colls.filter (fun c => c.toStream && c.stream == n && c.rank == c.root && c.members.contains m)

/-- The burst that a BROADCAST sends to a member: number and epoch, once a GRANT has named it. -/
def Coll.burstTo (c : Coll) (m : Nat) : Option (Nat × Nat) := c.grants.getD (c.members.idxOf m) none

/-- A burst stops (R363): its BROADCAST completes with the destination reported cancelled, and the job faults. -/
def State.cancelBurst (s : State) (p : Nat) (c : Coll) : State :=
  let e : Ev := { cls := 2, src := 24, mkind := 4, mid := p, acc := 8 }
  match s.findRun c.id with
  | some run =>
    ((((s.quietBurst c.id).dropRun c.id).freeColl c.id).complete run.cmd { run.res with status := 3, cause := 11, aliased := run.aliased } false).contained c.dom
      { e with cmd := some run.cmd, detail := 11 } []
  | none => s.contained c.dom e []

/-- The limit of a GRANT goes to the BROADCAST that sends its burst, else to the next one that stands without a burst, or waits for one. One
that lets no unit go names no burst (log entry 133). -/
def State.takeGrant (s : State) (n src burst ep lim : Nat) : State :=
  let cs := s.sendersTo n src
  match cs.find? (fun c => c.burstTo src == some (burst, ep)) with
  | some c => (s.modColl c.id (fun c => { c with limit := modAt c.limit (c.members.idxOf src) (fun _ => lim) })).heard c.id
  | none =>
    if lim = 0 then s
    else match cs.find? (fun c => (c.burstTo src).isNone) with
      | some c => (s.modColl c.id (fun c => c.granted1 src burst ep lim)).heard c.id
      | none => s.keepEarly (64 + n) burst ep src lim

/-- GRANT (R360, R363). One of a burst that has been sent whole changes nothing. Where it is of another epoch than a burst of this module,
the packets of that burst that have not left are not sent, and the burst stops. Then its limit is taken. -/
def State.grantPkt (s : State) (p : Nat) (k : Pkt) : State :=
  let n := k.f.getD 0 0
  let burst := k.f.getD 1 0
  if s.burstSent n k.src k.epoch burst then s
  else
    let s := s.dropUnsent (fun q => q.kind == .stream && q.f.getD 0 0 == n && q.dst == k.src && q.epoch != k.epoch)
    let old := (s.sendersTo n k.src).find? (fun c => match c.burstTo k.src with | some b => b.2 != k.epoch | none => false)
    let s := match old with
      | some c => s.cancelBurst p c
      | none => s
    s.takeGrant n k.src burst k.epoch (k.f.getD 2 0)

def execGrant (p v : Nat) (s : State) : Host.Outcome State Fault Refusal :=
  .next (s.onPacket p v .grant (fun s k => s.grantPkt p k))

/-- POISON (R343). -/
def State.poisonPkt (s : State) (k : Pkt) : State :=
  let d := k.f.getD 0 0
  let cause := k.f.getD 1 0
  let step := k.f.getD 2 0
  let open' := match (s.dom d).step with
    | some st => st.number == step && s.stepOpenB d
    | none => false
  if open' then s.setPoison d step cause k.src
  else if s.rf (rStepNumber d) 31 0 ≠ step ∧ nextStep (s.rf (rStepLastSealed d) 31 0) = step then
    s.modDom d (fun x => { x with held := x.held ++ [(step, cause, k.src)] })
  else s.bump cPoisonStale 1

def execPoison (p v : Nat) (s : State) : Host.Outcome State Fault Refusal :=
  .next (s.onPacket p v .poison (fun s k => s.poisonPkt k))

/-- READY (R344): only the frame master counts it. -/
def execReady (p v : Nat) (s : State) : Host.Outcome State Fault Refusal :=
  .next (s.onPacket p v .ready (fun s k =>
    if s.rangeState = 3 then s.countReady (k.f.getD 0 0) (k.f.getD 2 0) (k.f.getD 1 0) k.src else s))

/-! ### Flits -/

/-- Send a control flit (R323, R337): it is neither sequenced nor retried. -/
def State.sendCtrl (s : State) (p kind : Nat) (payload : List Byte) : State :=
  if s.portUpB p then
    let h := (s.port p).header (s.port p).txSeq payload
    (s.modPort p (fun _ => h.2)).onWire p { h.1 with ctrl := true, kind }
  else s

/-- All standing collectives look whether they are done. -/
def State.collsDone (s : State) : State := s.fab.colls.foldl (fun s c => s.collDone c.id) s

/-- The acknowledgement of a flit (R324): flits up to `ack` leave the retry buffer. -/
def Port.ackTo (t : Port) (ack : Nat) : Port :=
  let n := (ack + 4096 - t.acked) % 4096
  if n = 0 ∨ t.retry.length < n then t
  else { t with retry := t.retry.drop n, acked := ack, naks := 0 }

/-- A credit total (R325): `none` is a credit error. -/
def Port.creditTo (t : Port) (v total : Nat) : Option Port :=
  let n := (total + 65536 - t.seen.getD v 0) % 65536
  if t.owed.getD v 0 < n then none
  else some { t with seen := modAt t.seen v (fun _ => total), avail := modAt t.avail v (· + n), owed := modAt t.owed v (· - n) }

/-- Who met an event of a port's receiver (Table FC-3). -/
def portBy (p : Nat) : By := { kind := 4, id := p, acc := 8 }

/-- A flit of this end has been lost: the totals of every channel are reported again (R325; log entry 113). -/
def Port.reportAll (t : Port) : Port :=
  { t with unreported := t.unreported ++ (List.range 8).filter (fun v => !t.unreported.contains v) }

/-- A NAK (R324): every flit from `ACK` + 1 on is sent again; the sixteenth for one flit retrains the port. -/
def State.nak (s : State) (p : Nat) : State :=
  let s := (s.bump (cPortRetry p) 1).corrected 4 0 0 (portBy p)
  let s := s.modPort p (fun t => { t with naks := t.naks + 1 }.reportAll)
  if 16 ≤ (s.port p).naks then (s.retrain p).corrected 4 0 0 (portBy p)
  else (s.port p).retry.foldl (fun s r =>
    let h := (s.port p).header r.1 (r.2.flatMap Pkt.bytes)
    (s.modPort p (fun _ => h.2)).onWire p h.1) s

/-- Collectives whose packets wait on a channel of a port hear of its credit (R362). -/
def State.heardPort (s : State) (p v : Nat) : State :=
  let s := (s.fab.colls.filter (fun c => (s.port p).sendq.any (fun k => k.vc == v && c.sends k))).foldl (fun s c => s.heard c.id) s
  -- a STEP_SEAL whose READY waits hears of it as well
  (s.doms.map (·.1)).foldl (fun t d => match (s.dom d).step with
    | some st => if (s.port p).sendq.any (fun k => k.vc == v && st.ownReady d k) then t.modStep d (fun x => { x with heard := true }) else t
    | none => t) s

/-- What the link header of an accepted flit reports (R324, R325). -/
def State.linkHeader (s : State) (p : Nat) (f : Flit) : State :=
  let t := (s.port p).ackTo f.ack
  match t.creditTo f.crVc f.crTotal with
  | none => (((s.modPort p (fun _ => { t with creditErr := some f.crVc })).retrain p).corrected 4 0 0 (portBy p))
  | some t' =>
    let got := decide (t.avail.getD f.crVc 0 < t'.avail.getD f.crVc 0)
    let s := s.modPort p (fun _ => t')
    let s := if got then s.heardPort p f.crVc else s
    let s := if f.nak then s.nak p else s
    (s.pump p).collsDone

/-- May a packet of a type travel on a channel (Tables CF-5, CF-7)? -/
def PKind.onVc (k : PKind) (v : Nat) : Bool :=
  v == 7 || (match k with
    | .leaf => v == 1 || v == 2
    | .gather => v == 3 || v == 4
    | .stream => v == 5 || v == 6
    | _ => v == 0)

/-- The packets of an accepted flit come into the receive buffer; malformed ones are counted and return their credits
(Table CF-7; log entry 40). -/
def State.intoRx (s : State) (p : Nat) (payload : List Byte) : State :=
  let r := parseUnits 15 payload
  let ok := r.1.filter (fun k => k.kind.onVc k.vc)
  let bad := r.2 ++ (r.1.filter (fun k => !k.kind.onVc k.vc)).map (fun k => (k.vc, k.units))
  let s := s.modPort p (fun t =>
    let t : Port := { t with rxSeq := (t.rxSeq + 1) % 4096, ackOwed := true, rx := t.rx ++ ok }
    let t := ok.foldl (fun (t : Port) k => t.room k.vc (-(k.units : Int))) t
    bad.foldl (fun (t : Port) b => t.give b.1 b.2) t)
  s.bump cCfBad bad.length

/-- FLIT_RECEIVE (R322-R325): FEC counts; a flit with a bad CRC or another `SEQ` is discarded and NAKed; control flits go to
their rows; an idle flit carries news only. -/
def execFlitReceive (p : Nat) (flit : List Byte) (fecCe fecUe : Nat) (s0 : State) : Host.Outcome State Fault Refusal :=
  let s := s0.useFd [.netif]
  if !s.portUpB p then .next s
  else
    let s := (s.bump (cPortFecCe p) fecCe).bump (cPortFecUe p) fecUe
    let s := if fecCe + fecUe = 0 then s else s.corrected 4 0 0 (portBy p)
    match flitOf flit with
    | none => .next ((s.modPort p (fun t => { t with nakOwed := true })).pump p)
    | some f =>
      if f.ctrl then
        let b := s.fab
        let s := match f.kind with
          | 0 => { s with fab := { b with markers := b.markers ++ [(p, s.now, f.payload)] } }
          | 1 => { s with fab := { b with echoes := b.echoes ++ [p] } }
          | 2 => { s with fab := { b with replies := b.replies ++ [(p, s.now)] } }
          | _ => s
        .next (s.linkHeader p f)
      else if f.seq ≠ (s.port p).rxSeq then .next ((s.modPort p (fun t => { t with nakOwed := true })).pump p)
      else if bits (leNat (f.payload.take 1)) 3 0 = 15 then .next (s.linkHeader p f)
      else .next ((s.intoRx p f.payload).linkHeader p f)

/-! ### Ports -/

/-- PORT_DOWN (R331): a link failure, which a retrain repairs: a Corrected event of source 4 (Table FC-2; log entry 114). -/
def execPortDown (p : Nat) (s : State) : Host.Outcome State Fault Refusal :=
  .next (if p < 18 ∧ s.portUpB p then (s.linkLost p 0).corrected 4 0 0 (portBy p) else s)

/-- PORT_UP (R322): all 8 lanes of an enabled port have trained; both ends advertise their credits anew (R326): this
end those of `VC_CREDITS`, the partner those of the row. Before its release the package trains no port (R457, R461). -/
def execPortUp (p : Nat) (reversed : Bool) (credits : List Nat) (s : State) : Host.Outcome State Fault Refusal :=
  if p < 18 ∧ s.rb (rPortCfg p) 0 ∧ !s.portUpB p ∧ s.pwr.pkg = .released then
    let cr := (credits ++ List.replicate 8 0).take 8
    let s := s.setReg (rPortStatus p) (BitVec.ofNat 64 (2 + 255 * 4 + b2n reversed * 2 ^ 10))
    let adv := (List.range 8).map (fun v => s.rf (rVcCfg v) 13 0)
    let s := s.modPort p (fun t =>
      t.rx.foldl (fun (t : Port) k => t.room k.vc (-(k.units : Int)))
        { ({} : Port) with rx := t.rx, oldRx := t.rx.length, creditErr := t.creditErr, since := t.since, credits := cr, avail := cr,
                           adv, rxFree := adv.map (fun (u : Nat) => (u : Int)) })
    let s := if p = s.rf rRangeCtl 14 10 then { s with fab := { s.fab with sinceEcho := 4096 } } else s
    .next s.sendWaiting
  else .next s

/-- PORT_TRAIN_RETRY (R461): an enabled port that is not UP 1 s after training began starts again (source 4 of Table FC-2; log
entry 114). -/
def execPortTrainRetry (p : Nat) (s : State) : Host.Outcome State Fault Refusal :=
  if p < 18 ∧ s.rb (rPortCfg p) 0 ∧ !s.portUpB p ∧ s.pwr.pkg = .released then
    let s := s.timeTo ((s.port p).since + 1000000000)
    .next (((s.setReg (rPortStatus p) 1#64).modPort p (fun t => { t with since := s.now })).corrected 4 0 0 (portBy p))
  else .next s

/-! ### Echo flits (R338) -/

/-- ECHO_REQUEST: answered with an echo reply; what its payload says of the turnaround is not given (log entry 57). -/
def execEchoRequest (p : Nat) (s : State) : Host.Outcome State Fault Refusal :=
  if s.fab.echoes.contains p then
    let s := { s with fab := { s.fab with echoes := s.fab.echoes.erase p } }
    let v := s.freeWord
    .next (v.2.sendCtrl p 2 (leBytes 8 v.1.toNat))
  else .next s

/-- ECHO_REPLY: D is half the round trip less the partner's turnaround, in picoseconds. -/
def execEchoReply (p turnPs : Nat) (s : State) : Host.Outcome State Fault Refusal :=
  match s.fab.replies.find? (fun r => r.1 == p) with
  | none => .next s
  | some r =>
    let t0 := s.fab.echoAt
    let s := { s with fab := { s.fab with replies := s.fab.replies.erase r } }
    .next (match t0 with
      | some t =>
        if p = s.rf rRangeCtl 14 10 then
          { s.setRf rRangeStatus 63 32 (((r.2 - t) * 1000 - turnPs) / 2) with fab := { s.fab with echoAt := none } }
        else s
      | none => s)

/-- DELAY_MEASUREMENT: a member sends an echo request at training and every 4,096 frames. -/
def execDelayMeasurement (s : State) : Host.Outcome State Fault Refusal :=
  let p := s.rf rRangeCtl 14 10
  if (s.rangeState = 1 ∨ s.rangeState = 2) ∧ 4096 ≤ s.fab.sinceEcho ∧ s.portUpB p then
    .next ({ s with fab := { s.fab with echoAt := some s.now, sinceEcho := 0 } }.sendCtrl p 1 [])
  else .next s

/-! ### Stokes of a range (R336-R341, R464) -/

/-- A stoke marker's payload (Table CF-10). -/
structure Marker where
  frame : Nat
  offsetPs : Nat
  period : Nat
  hops : Nat
  nextPeriod : Nat
  switchFrame : Nat
  sealMap : List Nat
deriving DecidableEq, Repr

def markerOf (bs : List Byte) : Marker :=
  let x := leNat (bs.take 56)
  { frame := bits x 47 0, offsetPs := bits x 63 48, period := bits x 76 64, hops := bits x 81 77, nextPeriod := bits x 108 96,
    switchFrame := bits x 175 128, sealMap := (List.range 256).filter (fun d => bit x (192 + d)) }

def Marker.bytes (m : Marker) : List Byte :=
  leBytes 56 (m.frame % 2 ^ 48 + m.offsetPs % 2 ^ 16 * 2 ^ 48 + m.period * 2 ^ 64 + m.hops * 2 ^ 77 + m.nextPeriod * 2 ^ 96
    + m.switchFrame * 2 ^ 128 + (m.sealMap.map (fun d => 2 ^ (192 + d))).sum)

/-- A stoke of a range falls: its frame number, its period, and the time of it; the actions of the stoke are those of the
STOKE row (log entry 55). -/
def State.placeStoke (s : State) (frame period at' : Nat) : State :=
  let s := (s.setRf rFrameNumber 47 0 (frame % 2 ^ 48)).setRf rStokePeriod 12 0 period
  { s with frame := { s.frame with stokeAt := at' }, fab := { s.fab with marked := true } }

/-- The first master stoke at or after a time, from a marker's stoke on (R341, R464). -/
def Marker.stokeFrom (m : Marker) (t0 lo : Nat) : Nat → Nat → Nat → Nat → Nat × Nat × Nat
  | 0, f, p, t => (f, p, t)
  | fuel + 1, f, p, t =>
    if lo ≤ t then (f, p, t)
    else
      let f' := f + 1
      let p' := if m.nextPeriod ≠ 0 ∧ m.switchFrame = f' then m.nextPeriod else p
      Marker.stokeFrom m t0 lo fuel f' p' (t + p * 1000)

/-- The period of the frame after this one on a member that hears nothing (R340, R341). -/
def State.nextPeriod (s : State) : Nat :=
  match s.frame.switch with
  | some (p, f) => if f = s.frameNo + 1 then p else s.rf rStokePeriod 12 0
  | none => s.rf rStokePeriod 12 0

/-- STOKE_MARKER (R336-R341, R464): a master counts it; a JOINING module computes its joining stoke from it; a MEMBER takes
stoke time, frame, period and seal map from it. Its stoke lies at the marker's arrival less `OFFSET_PS` and the delay (R338). A marker on
another port, after a Fatal fault here (R423), with `HOPS` above 16, of the frame that has already begun here, or more than 100 ns from the expected stoke (R340) changes
nothing more. -/
def execStokeMarker (p : Nat) (s : State) : Host.Outcome State Fault Refusal :=
  match s.fab.markers.find? (fun m => m.1 == p) with
  | none => .next s
  | some mk =>
    if s.rangeState = 2 ∧ s.fab.marked then .next s
    else
      let s := { s with fab := { s.fab with markers := s.fab.markers.erase mk } }
      let m := markerOf mk.2.2
      let t := mk.2.1 - (m.offsetPs + s.rf rRangeStatus 63 32) / 1000
      let due := s.frame.stokeAt + s.periodNs
      .next (
        if s.rangeState = 3 then s.bump cStokeConflict 1
        else if s.flt.fatal then s
        else if p ≠ s.rf rRangeCtl 14 10 ∨ 16 < m.hops then s
        else if s.rangeState = 1 then
          if s.fab.joining.isSome then s
          else
            let j := m.stokeFrom t (max (mk.2.1 + 4000) (s.frame.stokeAt + 4000)) 100 m.frame m.period t
            { s.setRf rRangeStatus 6 2 (m.hops + 1) with
              fab := { s.fab with joining := some { frame := j.1, period := j.2.1, at' := j.2.2, next := m.nextPeriod, switch := m.switchFrame } } }
        else if s.rangeState = 2 ∧ m.frame ≠ s.frameNo ∧ t ≤ due + 100 ∧ due ≤ t + 100 then
          let s := (s.placeStoke m.frame m.period t).setRf rRangeStatus 6 2 (m.hops + 1)
          { s with fab := { s.fab with heldStokes := 0, sealMap := m.sealMap }
                   frame := { s.frame with switch := if m.nextPeriod = 0 then none else some (m.nextPeriod, m.switchFrame) } }
        else s)

/-- STOKE_MISSING (R340): no valid marker within 100 ns of the expected stoke; the member makes the stoke itself. -/
def execStokeMissing (s : State) : Host.Outcome State Fault Refusal :=
  if s.rangeState = 2 ∧ !s.fab.marked then
    let at' := s.frame.stokeAt + s.periodNs
    let s := (s.timeTo (at' + 100)).bump cStokeMiss 1
    let s := s.placeStoke (s.frameNo + 1) s.nextPeriod at'
    .next { s with fab := { s.fab with heldStokes := s.fab.heldStokes + 1, sealMap := [] } }
  else .next s

/-- RANGE_DETACH (R340): groups are disabled, and every job that owned one faults, in ascending domain (R419). The period stays as it is: a change that was announced
is not made. -/
def execRangeDetach (s : State) : Host.Outcome State Fault Refusal :=
  if s.rangeState = 2 ∧ s.rf rCfCtl 14 8 ≤ s.fab.heldStokes then
    let gs := (List.range 64).filter (fun k => s.rb (rCgroupCtl k) 24)
    let ds := (List.range 256).filter (gs.map s.groupDom).contains
    let s := (s.setRf rRangeStatus 1 0 0)
    let s := { s with fab := { s.fab with heldStokes := 0, joining := none }
                      frame := { s.frame with switch := none } }
    let s := gs.foldl (fun s k => s.setRb (rCgroupCtl k) 24 false) s
    .next (ds.foldl (fun s d => s.contained d { cls := 2, src := 21, mkind := 3, mid := 2, acc := 8 } []) s)
  else .next s

/-- The master's next stoke after a joining stoke, at the period that its marker announced for that frame (R341, R464). -/
def Joining.later (j : Joining) : Joining :=
  { j with frame := j.frame + 1, at' := j.at' + j.period * 1000,
           period := if j.next ≠ 0 ∧ j.switch = j.frame + 1 then j.next else j.period }

/-- JOINING_STOKE (R464): the master's frame number and period hold from this stoke on. A local stoke less than 4 µs before it
moves it to the master's next one. After a Fatal fault there is none (R423). -/
def execJoiningStoke (s : State) : Host.Outcome State Fault Refusal :=
  match s.rangeState, (if s.flt.fatal then none else s.fab.joining) with
  | 1, some j =>
    if j.at' < s.frame.stokeAt + 4000 then .next { s with fab := { s.fab with joining := some j.later } }
    else
      let s := ((s.timeTo j.at').placeStoke j.frame j.period j.at').setRf rRangeStatus 1 0 2
      .next { s with fab := { s.fab with joining := none, heldStokes := 0, sealMap := [] },
                     frame := { s.frame with switch := if j.next ≠ 0 ∧ j.frame < j.switch then some (j.next, j.switch) else none } }
  | _, _ => .next s

end Sys2Proof.Machine
end

