-- ==== Sys2Proof/Machine/Load.lean ====
section
/-!
DEFINITION. What a command's unit does when the command reaches the head of its queue (R184, R209, R220, R399): descriptor
reads, the checks of Table TD-5, tile ownership, the walk, the instruction's own checks, completion at the head.
-/
namespace Sys2Proof.Machine

/-! ### The checks of Table TD-5 -/

/-- One descriptor operand with its role and direction. -/
structure Opd where
  role : Role
  dir : Dir
  d : Desc
deriving DecidableEq, Repr

/-- Check 2: reserved fields, unused dimensions (R186), unused bits of `FILL` (R200) and `AUX_BASE`, expansion fields. -/
def Opd.rsvdOk (o : Opd) : Bool :=
  let d := o.d
  let int := d.ety == 6 || d.ety == 7
  let unused (k n : Nat) (s : Int) : Bool := decide (k < d.rank) || (n == 0 && s == 0)
  d.rsvd0 && unused 0 d.n0 d.s0 && unused 1 d.n1 d.s1 && unused 2 d.n2 d.s2 && unused 3 d.n3 d.s3 &&
  (d.rank != 1 || (d.padLo1 == 0 && d.padHi1 == 0 && !d.trans)) &&
  (int || (!d.expMode && !d.expTgt)) && (d.bscaled || int || d.space == 3 || d.aux == 0) &&
  ((etyOf d.ety).isNone || d.fillOk)

/-- Check 4: the type is defined and has a role that Table TD-3 gives it; only narrow types are block-scaled (R73), only INT4 has a
table mode (R90). What the instruction's own table allows is checked after Table TD-5 (R209; log entry 82). -/
def Opd.typeOk (o : Opd) (c : Cmd) : Bool :=
  let tr := c.opcode == oTransfer
  match etyOf o.d.ety with
  | none => false
  | some t =>
    (match t with
     | .zf8 | .zg8 | .zf16 | .zg16 | .za32 => true
     | .zm32 => o.dir == .rd || tr
     | .int4 | .int8 => o.dir == .rd || tr || c.opcode == oConvert
     | .b32 | .b16 | .bf16 => tr || c.opcode == oConvert
     | .u32 | .u64 | .byte | .bitmap => o.role.tys.contains t) &&
    (!o.d.bscaled || t.isNarrow) && (t != .int8 || o.d.expMode)
/-- The instruction's own tables: the type and the place of an operand. -/
def Opd.tableCauses (o : Opd) : List Nat :=
  [orCause (o.role.tys.contains o.d.ty) o.role.tcause, orCause (o.role.spaces.contains o.d.space) o.role.pcause]
/-- Check 5: rank, the limits of R190 and R198. -/
def Opd.shapeOk (o : Opd) : Bool :=
  let d := o.d
  decide (1 ≤ d.rank ∧ d.rank ≤ 4) && decide (d.count ≤ 2 ^ 48) && (d.ty != .bitmap || d.rank == 2) &&
  (!(d.bscaled || (d.ty.isInt && d.expMode)) || d.stCount % 32 == 0) && (!d.bshape || d.sz 1 % 32 == 0)

/-- Check 6: space, direction and layout (Table TD-2, R187, R188, R194). -/
def Opd.layoutOk (o : Opd) (c : Cmd) : Bool :=
  let d := o.d
  let still := d.s0 == 0 && d.s1 == 0 && d.s2 == 0 && d.s3 == 0
  decide (d.space ≤ 3) && (d.space != 2 || o.dir == .rd) && (d.space != 3 || (o.dir == .wr && c.opcode == oTransfer)) &&
  (match d.layout with
   | 0 => true
   | 1 => d.space == 0
   | 2 => d.space == 1 && (d.ty.bits == 8 || d.ty.bits == 16 || d.ty.bits == 32)
   | _ => false) &&
  (!(d.ty == .int4 || d.ty == .bitmap) || (d.layout == 0 && !d.trans)) && (d.ty != .bitmap || !d.padded) &&
  (d.space != 2 || (decide (d.rank ≤ 2) && !d.padded && !d.trans && still)) &&
  (d.space != 3 || (d.rank == 2 && decide (1 ≤ d.n1 ∧ d.n1 ≤ 64) && still)) &&
  (!d.ty.isInt || !d.bscaled)

/-- Is a TILE encoding legal (Table TD-2), and does it name the executing tile where it must (R187, R199)? -/
def encOk (self : Option Nat) (any : Bool) (v : Nat) : Bool :=
  decide (v < 2 ^ 31) && (!bit v 30 || bits v 29 23 == 0) && decide (bits v 28 23 ≤ 47) && (!bit v 30 || self.isSome) &&
  (any || self.isNone || self == some (tileOf self v).1)

/-- Check 7: encodings, tile-store offsets, alignment and placement (R195, R196). -/
def Opd.placeOk (o : Opd) (c : Cmd) (self : Option Nat) : Bool :=
  let d := o.d
  let any := c.opcode == oTransfer
  let align := if d.layout = 1 then 256 else if d.layout = 2 then 512 else if d.ty = .bitmap then 8 else d.esz
  let inside (r : Int × Int) : Bool := decide (r.2 ≤ 0) || decide (0 ≤ r.1 ∧ r.1 + r.2 ≤ (tileBytes : Int))
  let enc (v : Nat) := encOk self any v && decide (bits v 22 0 < tileBytes)
  (match d.space with
   | 1 => enc d.base && (!d.usesAux || enc d.aux) && (d.tranges self).all (fun r => inside r.2)
   | 2 => decide (d.base < 1024 ∧ d.aux < 1024)
   | 3 => decide (d.base < 64) && enc d.aux && (d.tranges self).all (fun r => inside r.2)
   | _ => true) &&
  (decide (2 ≤ d.space) || d.base % align == 0) &&
  (!(o.role.record || d.ty == .bitmap || d.ty == .u32 || d.ty == .u64 || d.ty == .byte) || d.layout == 0) &&
  (!(o.role.hearth && d.space == 1) || (if d.ty = .int4 then d.layout == 0 && !d.trans else d.layout == 2))

/-- Check 8: padding (R191, R200). -/
def Opd.padOk (o : Opd) : Bool := !((o.dir != .rd || o.d.ty == .u64) && o.d.padded)

/-- Check 9: blocked strides (R193-R195) and zero strides of a written descriptor (R203), but for an
answer's (log entry 116). -/
def Opd.strideOk (o : Opd) (c : Cmd) : Bool :=
  let d := o.d
  let unit : Int := if d.layout = 1 then 4096 else 1024
  let blk (k : Nat) (s : Int) : Bool := decide (d.rank ≤ k) || (decide (0 < s) && s % unit == 0)
  let zero := (List.range 4).any (fun k => d.str k == 0 && decide (1 < d.sz k))
  (d.layout == 0 || (blk 0 d.s0 && blk 1 d.s1)) &&
  (if d.ty = .bitmap then d.s0 == 0 && d.s1 == 0
   else if o.dir = .rd ∨ d.space = 3 then true
   else if c.opcode = oCombine then d.injective
   else o.dir == .rw || !zero)

/-- Check 10: the footprint of a written descriptor meets another (R208); of a GATHER or SCATTER any two (R151). -/
def overlapBad (c : Cmd) (os : List Opd) (self : Option Nat) : Bool :=
  c.opcode != oConvert &&
  os.zipIdx.any (fun a => (a.1.dir != .rd || c.opcode == oGather || c.opcode == oScatter) &&
    os.zipIdx.any (fun b => b.2 != a.2 && a.1.d.overlaps b.1.d self))

/-- A TILE descriptor names a tile of another domain (R213, R199). -/
def State.tileOwnerOk (s : State) (d : Nat) (o : Opd) (self : Option Nat) : Bool :=
  (o.d.tranges self).all (fun r => r.2.2 == 0 || s.tileOwner r.1 == d) &&
  (o.d.space != 1 || (s.tileOwner (tileOf self o.d.base).1 == d && (!o.d.usesAux || s.tileOwner (tileOf self o.d.aux).1 == d)))

/-- A STREAM operand reads an enabled stream of the domain (Table CF-13), and so does its area at `AUX_BASE` (R199). -/
def State.streamOk (s : State) (d : Nat) (o : Opd) : Bool :=
  let ok (n : Nat) : Bool := s.rb (rStreamCfg (n % 1024)) 16 && s.rf (rStreamCfg (n % 1024)) 7 0 == d
  o.d.space != 2 || (ok o.d.base && (!o.d.usesAux || ok o.d.aux))

/-- The cause of the first check that fails (R209), 0 where all pass; tile ownership follows. -/
def State.descCause (s : State) (c : Cmd) (ck : Checks) (os : List Opd) (self : Option Nat) : Nat :=
  let all (p : Opd → Bool) (k : Nat) := orCause (os.all p) k
  firstCause [all Opd.rsvdOk 1, all (fun o => o.d.dom == c.dom) 15, all (fun o => o.typeOk c) 3, ck.types, all Opd.shapeOk 2,
    ck.sizes, all (fun o => o.layoutOk c) 18, all (fun o => o.placeOk c self) 4, all Opd.padOk 17, all (fun o => o.strideOk c) 16,
    orCause (!overlapBad c os self) 9, all (fun o => s.tileOwnerOk c.dom o self) 20, all (s.streamOk c.dom) 25]

/-- The lowest-numbered cause of the instruction's own checks, 0 where all pass (R97, R209). -/
def ownCause (ck : Checks) (os : List Opd) : Nat := minCause (ck.own ++ os.flatMap Opd.tableCauses)

/-- The checks that an instruction adds. -/
def State.checksOf (s : State) (c : Cmd) (ds : List (Option Desc)) (self : Option Nat) : Checks :=
  let o := c.opcode
  if o = oTransfer then transferChecks c ds
  else if o = oConvert then convertChecks c ds
  else if o = oVclear then vclearChecks c ds
  else if o = oHmul then hmulChecks c ds
  else if o = oSmul then smulChecks c ds
  else if o = oGather ∨ o = oScatter then gatherChecks c ds
  else if o = oMerge then mergeChecks c ds
  else if o = oCompact then compactChecks c ds
  else if o = oFunc then funcChecks c ds
  else if o = oRoute then s.routeChecks c ds
  else if o = oCombine then s.combineChecks c ds self
  else if o = oUpdate then s.updateChecks c ds
  else if c.isCollective then s.collChecks c ds
  else
    -- STEP_OPEN in direct mode: the applied-block map (R268)
    let d := dAt ds 0
    { roles := [{ tys := [.bitmap], spaces := [0], record := true }]
      sizes := orCause (decide (((s.pmap c.dom).map PMap.blocks).getD 0 ≤ d.n0 * d.n1)) 2 }

/-! ### Descriptor reads -/

/-- How the descriptor reads end: the descriptors, or the command's end. -/
inductive LoadEnd where
  | ok (ds : List (Option Desc))
  /-- Rejected with a cause and no fault. -/
  | reject (cause : Nat)
  /-- A walk event: malformed? and the DPA of the entry. -/
  | walk (malformed : Bool) (dpa : Nat)
  /-- The entry lies in an absent page; it reads as poisoned. -/
  | absent (va : Nat)
  | poisoned (va : Nat)
deriving DecidableEq, Repr

/-- Address of a table entry (R183). -/
def State.descVa (s : State) (d h : Nat) : Nat := (s.reg (rDescTblBase d)).toNat + 64 * h

/-- Read one table entry (R184). -/
def State.readDesc (s : State) (e : Env) (d h : Nat) : State × LoadEnd :=
  let va := s.descVa d h
  let w := s.walkVa e d va
  match w.2 with
  | .malformed a => (w.1, .walk true a)
  | .poisoned a => (w.1, .walk false a)
  | .entry p =>
    if p.present && p.host then (w.1, .reject 19)
    else if !p.present then (w.1, .absent va)
    else
      let x : X := { s := w.1, e, run := ownRun d [p], tile := none }
      let r := x.readWords .va va 8 8
      if r.2.2 then (r.1.s, .poisoned va) else (r.1.s, .ok [some (Desc.ofWords (r.2.1.map (BitVec.ofNat 64)))])

/-- Read a command's descriptors, once each, in order (R184); a handle 0xFFFF that is allowed is skipped. -/
def State.readDescs (s : State) (e : Env) (d : Nat) : List Hand → State × LoadEnd
  | [] => (s, .ok [])
  | h :: hs =>
    if h.opt && h.h == 65535 then
      let r := State.readDescs s e d hs
      match r.2 with
      | .ok ds => (r.1, .ok (none :: ds))
      | o => (r.1, o)
    else
      let f := s.readDesc e d h.h
      match f.2 with
      | .ok d1 =>
        let r := State.readDescs f.1 e d hs
        match r.2 with
        | .ok ds => (r.1, .ok (d1 ++ ds))
        | o => (r.1, o)
      | o => (f.1, o)

/-! ### Loading -/

/-- The unit of a command at the head of a queue, busy or not (R390, R393). -/
def State.headUnit (s : State) (q : Nat) (c : Cmd) : Unit' :=
  if c.opcode = oUpdate then .updater
  else if isTileQ q then
    (if c.boundZero then .seq q else if c.opcode = oHmul then .hearth q else if c.opcode ≤ 0x07 then .tdma q else .skipper q)
  else if c.boundZero then .sched
  else if c.isCollective then .netif
  else .fdma ((s.headEngine q).getD 0)

/-- The event of a queued command at its unit. -/
def State.headEv (s : State) (q : Nat) (c : Cmd) (src detail : Nat) : Ev := s.runEv { cmd := c, q, unit := s.headUnit q c } src detail

/-- A walk event (Table MS-5): the command completes with `XLATE` and the job faults; a malformed entry also raises the
Snuffer alarm. -/
def State.walkEvent (s : State) (q : Nat) (c : Cmd) (malformed : Bool) (dpa : Nat) : State :=
  let ev := s.headEv q c 17 (19 + 2 ^ 9)
  let s := s.completeHead q { status := 1, cause := 19 }
  let s := if malformed then s.snuffer 2 else s
  s.contained c.dom { ev with addr := dpa, akind := 2, acc := 5 } []

/-- The last checks, which read tables and headers through the snapshot (R128, R260): a read that fails ends the command. -/
def State.dataChecks (s : State) (e : Env) (r : Run) : X × Nat :=
  let x : X := { s, e, run := r, tile := r.unit.tile }
  if r.cmd.opcode = oFunc then x.funcCheck
  else if r.cmd.opcode = oSmul ∧ r.cmd.xForm then x.smulHeader
  else (x, 0)

/-- The command holds its descriptors, its snapshot, and its FD DMA engine if it runs on one. -/
def State.keepLoad (s : State) (q : Nat) (h : QEnt) (ds : List (Option Desc)) (ps : List Page) : State :=
  s.setHead q { h with loaded := true, descs := ds, pages := ps
                       eng := match s.headUnit q h.cmd with | .fdma n => some n | _ => none }

/-- The end of loading: own checks, completion at the head, `BOUND` (R398, R399). -/
def State.finishLoad (s : State) (q : Nat) (h : QEnt) (own : Nat) (atOnce : Bool) (ds : List (Option Desc)) (ps : List Page) (e : Env) :
    State :=
  let c := h.cmd
  if own ≠ 0 then s.completeHead q { status := 1, cause := own }
  else if c.opcode = oStepOpen ∧ ps.any (fun p => !p.present || !p.write) then s.completeHead q { status := 1, cause := 19 }
  else if atOnce then s.completeHead q { aliased := c.aliased ds }
  else
    let r : Run := { cmd := c, q, unit := s.headUnit q c, descs := ds, pages := ps }
    let k := s.dataChecks e r
    match k.1.stop with
    | some st =>
      let ev := k.1.s.headEv q c st.src st.detail
      let s := (k.1.s.completeHead q { status := 4, cause := st.cause }).bump (cXlateFault c.dom) (if st.src = 17 then 1 else 0)
      s.contained c.dom { ev with addr := st.addr, akind := st.akind, acc := st.acc } []
    | none =>
      let s := k.1.s
      if k.2 ≠ 0 then s.completeHead q { status := 1, cause := k.2 }
      else if c.bound = 0 ∧ !c.boundZero then s.completeHead q { status := 1, cause := 31 }
      else s.keepLoad q h ds ps

/-- Does a command lack an operand: a handle outside the table, or none where one is required (check 1)? The root of a BROADCAST needs
its source (Table CF-11). -/
def State.lacks (s : State) (c : Cmd) : Bool :=
  let len := s.rf (rDescTblLen c.dom) 15 0
  let root := c.opcode == oBroadcast && s.rb (rCgroupCtl c.group) 24 && (s.groupMembers c.group).idxOf s.member == c.root
  c.hands.any (fun k => !(k.opt && k.h == 65535) && (k.h == 65535 || decide (len ≤ k.h))) || (root && fld (c.op 0) 15 0 == 65535)

/-- Load the head of a queue. -/
def State.load (s : State) (q : Nat) (h : QEnt) (e : Env) : State :=
  let c := h.cmd
  let d := c.dom
  let self : Option Nat := if isTileQ q then some q else none
  if s.lacks c then
    s.completeHead q { status := 1, cause := 14 }
  else
    let r := s.readDescs e d c.hands
    let s := r.1
    match r.2 with
    | .reject k => s.completeHead q { status := 1, cause := k }
    | .walk m a => s.walkEvent q c m a
    | .absent va =>
      let ev := s.headEv q c 17 19
      let s := (s.completeHead q { status := 1, cause := 19 }).bump (cXlateFault d) 1
      s.contained d { ev with addr := va, akind := 1, acc := 4 } []
    | .poisoned va =>
      let ev := s.headEv q c 16 14
      let s := (s.completeHead q { status := 1, cause := 14 }).bump (cPoisonRead d) 1
      s.contained d { ev with addr := va, akind := 1, acc := 4 } []
    | .ok ds =>
      let ck := s.checksOf c ds self
      let os := ((c.hands.zip ds).zip ck.roles).filterMap (fun t => t.1.2.map (fun d => ({ role := t.2, dir := t.1.1.dir, d } : Opd)))
      let k := s.descCause c ck os self
      if k ≠ 0 then s.completeHead q { status := 1, cause := k }
      else
        let w := s.walkAll e d (c.opcode == oTransfer) 1024 (os.flatMap (fun o => o.d.vranges)) []
        match w.2 with
        | .reject => w.1.completeHead q { status := 1, cause := 19 }
        | .malformed a => w.1.walkEvent q c true a
        | .poisoned a => w.1.walkEvent q c false a
        | .ok ps => w.1.finishLoad q h (ownCause ck os) ck.atOnce ds ps e

/-- Rows are left for a continuation. -/
def Run.unfinished (r : Run) : Bool :=
  r.cmd.opcode == oSmul && (r.res.status == 0 || r.res.status == 2) &&
  (match r.cont with | some k => decide (k.rows < (dAt r.descs 2).N1) | none => false)

/-- Does an SMUL of the queue run that may have rows left: it stays at the head of its queue until the last row is taken (R137)? One
that has not executed may (log entry 87). -/
def State.smulHolds (s : State) (q : Nat) : Bool :=
  s.runs.any (fun r => r.q == q && r.cmd.opcode == oSmul && (r.st != .executed || r.unfinished))

/-- Does the head of a queue go on while its tile is closed: its domain enabled and not FAULTED, no SMUL before it with rows left, no
Fatal fault (R137, R420, R423)? -/
def State.headLive (s : State) (q : Nat) (c : Cmd) : Bool :=
  !s.flt.fatal && s.domOn c.dom && !s.faulted c.dom && !s.smulHolds q

/-- Is the head of a queue served: its tile is open as well, in twin mode the odd tile of the pair too (R42, R214, R373)? A closed tile
also holds commands that have no admission test (log entry 88). -/
def State.headServed (s : State) (q : Nat) (c : Cmd) : Bool :=
  s.headLive q c && !(isTileQ q && (s.tileClosed q || (s.rb (rTwinCtl c.dom) 0 && s.tileClosed (q + 1))))

/-- Does the head of a ring queue wait for an FD DMA engine (R393)? -/
def State.noEngine (s : State) (q : Nat) (c : Cmd) : Bool :=
  match s.headUnit q c with
  | .fdma _ => (s.headEngine q).isNone
  | _ => false

/-- DESCRIPTOR_LOAD (R184, R209, R220): the head of the queue is loaded once, by its unit. -/
def execDescriptorLoad (q : Nat) (e : Env) (s0 : State) : Host.Outcome State Fault Refusal :=
  let s := (s0.seeHead q).seeSram .module
  match s.head q with
  | none => .next s
  | some h =>
    if h.loaded || !h.cmd.needsLoad || !s.headServed q h.cmd || s.noEngine q h.cmd then .next s
    else .next ((s.upsets e).load q h e)

end Sys2Proof.Machine
end

