-- ==== Sys2Proof/Machine/Rings.lean ====
section
/-!
DEFINITION. The host's side (14_host_rings): the stack window (R388), doorbells, kicks and fetch (R400-R403), the dispatch checks
(R398), tally pages (R412).
-/
namespace Sys2Proof.Machine

/-! ### Rings -/

def State.ringDom (s : State) (r : Nat) : Nat := s.rf (rRingCfg r) 15 8
def State.ringCpl (s : State) (r : Nat) : Nat := s.rf (rRingCfg r) 29 24
/-- `RING_STATE`, `CPL_STATE`: 0 DISABLED, 1 RUNNING, 2 ERROR (Table HR-3). -/
def State.ringState (s : State) (r : Nat) : Nat := s.rf (rRingState r) 1 0
def State.cplState (s : State) (c : Nat) : Nat := s.rf (rCplState c) 1 0

/-- Does a ring fetch and dispatch: set-up locked, enabled, RUNNING, its domain not FAULTED, no Fatal fault (R401, R420, R423, R466)? -/
def State.ringRuns (s : State) (r : Nat) : Bool :=
  s.locked && s.rb (rRingCfg r) 0 && s.ringState r == 1 && !s.faulted (s.ringDom r) && !s.flt.fatal

/-- Announced entries neither in the fetch buffer nor asked for that one read can bring (R403): up to 64 ahead, up to the ring's
end. -/
def State.fetchable (s : State) (r : Nat) : Nat :=
  let g := s.ring r
  let have' := g.buf.length
  let len := s.ringLen r
  min (min (idxSub g.pi g.ci - have') (64 - have')) (len - (g.ci + have') % len)

/-- Issue the read of the entries that are announced (R403): one read at a time. -/
def State.fetchRing (s : State) (r : Nat) : State :=
  let g := s.ring r
  let n := s.fetchable r
  if s.ringRuns r && g.asked == 0 && decide (0 < n) then
    (s.setRing r { g with asked := n }).post
      (.ringRead r ((s.reg (rRingBase r)).toNat + 64 * ((g.ci + g.buf.length) % s.ringLen r)) n)
  else s

/-- A command ring enters ERROR (R401, R431): it stops fetching; with a fault of its job where `src` names a source. -/
def State.ringError (s : State) (r : Nat) : State :=
  (s.setRf (rRingState r) 1 0 2).setRing r { s.ring r with buf := [], asked := 0 }

/-- The event of a ring (Table FC-2, source 26): no unit of Table FC-3 is its master. -/
def ringEv : Ev := { cls := 2, src := 26 }

/-- A value of `CMD_PI` comes to ring r (R401, R402). With kick enable a value behind CI is stale and not in force, and the value
further beyond CI holds; without it any value beyond the ring's length is an error. -/
def State.newPi (s : State) (r v : Nat) : State :=
  let g := s.ring r
  let kick := s.rb (rRingCfg r) 32
  let a := idxSub v g.ci
  if !s.rb (rRingCfg r) 0 || s.ringState r != 1 then s
  else if s.ringLen r < a then
    (if kick && decide (2 ^ 31 ≤ a) then s else (s.ringError r).contained (s.ringDom r) ringEv [])
  else if kick && decide (a < idxSub g.pi g.ci) then s
  else s.setRing r { g with pi := v }

/-- A value of `CPL_CI` comes to completion ring c (R401). -/
def State.newCi (s : State) (c v : Nat) : State :=
  let p := s.cpl c
  if !s.rb (rCplCfg c) 0 || s.cplState c != 1 then s
  else if idxSub p.pi p.ci < idxSub v p.ci then (s.setRf (rCplState c) 1 0 2).contained (s.rf (rCplCfg c) 15 8) ringEv []
  else s.setCpl c { p with ci := v }

/-- Bytes of one block come to its stack from the PCIe port (R225, R388): over the interface, once a merge has read the block; a partial
write to a poisoned block leaves it. -/
def State.landBlk (s : State) (g : Nat × List (Nat × Byte × Bool)) : State :=
  let by' : By := { kind := 5, acc := 2 }
  let s := if inPart [] g then (s.readBlk {} g.1 by').1 else s
  let t := (flushSeen { crc := s.integ.cross } [] [] by' (s, []) g).1
  { t with integ := { t.integ with cross := t.integ.cross.filter (fun c => c.1 / 256 != g.1) } }

/-- A window write comes to the stacks. -/
def State.landOne (s : State) (w : Nat × List Byte) : State :=
  (groupLocs (· / 256) ((w.2.zipIdx).map (fun b => (w.1 + b.2, b.1, false)))).foldl State.landBlk s

/-- All window writes that wait come to the stacks, oldest first. -/
def State.landWin (s : State) : State :=
  s.host.win.foldl State.landOne { s with host := { s.host with win := [], winRead := 0 } }

/-- The `i`-th window write that waits is met, with the writes that stay behind so far: it is there if a read of BAR0 has completed after it;
behind an older one of its stack it stays, for one port's requests to a stack keep their order (R231); else a free value decides. -/
def State.seeWinOne (n : Nat) (s : State) (w : (Nat × List Byte) × Nat) : State :=
  let stay (s : State) : State := { s with host := { s.host with win := s.host.win ++ [w.1] } }
  if w.2 < n then s.landOne w.1
  else if s.host.win.any (fun v => v.1 / 2 ^ 36 == w.1.1 / 2 ^ 36) then stay s
  else
    let v := s.freeByte
    if v.1.getLsbD 0 then v.2.landOne w.1 else stay v.2

/-- A producer index becomes visible (R389; log entry 74). -/
def State.seeWin (s : State) : State :=
  (s.host.win.zipIdx).foldl (State.seeWinOne s.host.winRead) { s with host := { s.host with win := [], winRead := 0 } }

/-- The read of the doorbell block fails (R400); AER notes why (Table HR-1). A timeout takes its time. -/
def State.readFails (s : State) : ReadEnd → State
  | .timedOut => (s.timeTo (s.host.dbAt + 1000 * s.timeoutUs)).aer aerTimeout
  | .poisoned => s.aer aerPoisoned
  | .badEcrc => s.aer aerEcrc
  | _ => s

/-- Does a read bring no data: an ECRC is looked at only where checking is enabled (Table HR-1)? -/
def State.readBad (s : State) (res : ReadEnd) : Bool := if res = .badEcrc then s.ecrcCheck else res != .good

/-- DOORBELL_READ_DONE (R400, R401, Table HR-7): the block that the stoke asked for returns, or its read fails. -/
def execDoorbellReadDone (res : ReadEnd) (block : List W64) (s : State) : Host.Outcome State Fault Refusal :=
  if !s.host.dbAsked then .next s
  else
    let s := { s with host := { s.host with dbAsked := false } }
    if s.readBad res then .next ((s.readFails res).bump cDoorbellErr 1)
    else
      let s := s.seeWin
      let s := (List.range 64).foldl (fun s r => (s.newCi r (fld (block.getD r 0) 63 32)).newPi r (fld (block.getD r 0) 31 0)) s
      .next ((List.range 64).foldl State.fetchRing s)

/-- RING_FETCH_DONE (R403): entries that were asked for come into the fetch buffer, each with its EP mark; what is missing is asked
for again. -/
def execRingFetchDone (r : Nat) (entries : List (List W64 × Bool)) (s : State) : Host.Outcome State Fault Refusal :=
  let g := s.ring r
  if g.asked = 0 then .next s
  else
    let s := if (entries.take g.asked).any (·.2) then s.aer aerPoisoned else s
    .next ((s.setRing r { g with buf := g.buf ++ entries.take g.asked, asked := 0 }).fetchRing r)

/-- Does the function take memory requests: package released, link up, in D0 (R457, Table HR-1)? -/
def State.hostUp (s : State) : Bool := s.pwr.pkg == .released && s.pwr.pcieUp && !s.pwr.d3

/-- KICK_WRITE (R387, R402). -/
def execKickWrite (r off size : Nat) (v : W64) (s : State) : Host.Outcome State Fault Refusal :=
  if !s.hostUp then .next s
  else if size ≠ 8 ∨ off % 8 ≠ 0 then .next (s.bump cBarAccessErr 1)
  else if off ≠ 0 ∨ 64 ≤ r ∨ !s.rb (rRingCfg r) 32 then .next s
  else .next ((s.seeWin.newPi r (fld v 31 0)).fetchRing r)

/-- TALLY_PAGE_WRITE (R387, R412): `off` counts from the first tally page. -/
def execTallyPageWrite (off size : Nat) (v : W64) (s : State) : Host.Outcome State Fault Refusal :=
  if !s.hostUp then .next s
  else if size ≠ 8 ∨ off % 8 ≠ 0 then .next (s.bump cBarAccessErr 1)
  else if 0x100000 ≤ off then .next s
  else if fld v 63 48 ≠ 0 ∨ !s.rb (rTallyOwner (off / 4096)) 8 then .next (s.bump cTallyWriteErr 1)
  else .next (s.signalTally (off / 8) (fld v 47 0))

/-- What a host read of BAR2 returns, and its count (R387, R412): a tally page's counter at an aligned 8-byte offset, else 0. No row of
the table is such a read: it is no command (log entry 96). -/
def State.bar2Read (s : State) (off size : Nat) : State × W64 :=
  if size ≠ 8 ∨ off % 8 ≠ 0 then (s.bump cBarAccessErr 1, 0#64)
  else if 0x100000 ≤ off ∧ off < 0x200000 then (s, BitVec.ofNat 64 (s.tally ((off - 0x100000) / 8)).toNat)
  else (s, 0#64)

/-! ### Stack window -/

/-- STACK_WINDOW_WRITE (R388, R389): bytes for DPA `STACK_WIN_BASE` + offset. Whether a command sees them before a producer index
becomes visible is free (log entry 74). -/
def execStackWindowWrite (off : Nat) (data : List Byte) (s : State) : Host.Outcome State Fault Refusal :=
  let dpa := (s.reg rStackWinBase).toNat + off
  if !s.hostUp ∨ 2 ^ 32 < off + data.length then .next s
  else if stackEnd ≤ dpa then .next (s.bump cWinDrop 1)
  else
    let s := { s with host := { s.host with win := s.host.win ++ [(dpa, data)] } }
    let v := s.freeByte
    .next (if v.1.getLsbD 0 then v.2.landWin else v.2)

/-- STACK_WINDOW_READ (R388): Unsupported Request, which AER notes (R385; log entry 34). -/
def execStackWindowRead (off _size : Nat) (s : State) : Host.Outcome State Fault Refusal :=
  if !s.hostUp then .next s else .next ((s.aer aerUnsupported).post (.unsupported off))

/-! ### Dispatch -/

/-- Reserved bits of the operand words: (word, high, low) (R398 check 1). -/
def opRsvd (c : Cmd) : List (Nat × Nat × Nat) :=
  match c.opcode with
  | 0x01 => [(0, 63, 48), (1, 23, 17), (1, 63, 32)]
  | 0x02 => [(0, 31, 17)]
  | 0x03 => [(0, 15, 2), (0, 63, 32)]
  | 0x04 => [(0, 31, 25), (0, 63, 49)] ++ (if fbit (c.op 0) 24 then [] else [(0, 48, 32)])
  | 0x05 => [(0, 63, 32)]
  | 0x06 => [(0, 63, 32), (1, 7, 2), (1, 63, 16)]
  | 0x07 => [(0, 63, 16)]
  | 0x10 => [(1, 15, 5), (1, 63, 32), (2, 31, 17), (2, 63, 49)] ++ (if fbit (c.op 1) 4 then [] else [(2, 16, 0), (2, 48, 32)])
  | 0x11 => [(1, 15, 2), (2, 63, 32)]
  | 0x12 => [(0, 63, 48), (1, 63, 2)]
  | 0x13 => [(0, 63, 48), (1, 63, 2)]
  | 0x14 => [(1, 63, 33)]
  | 0x15 => [(0, 63, 33)]
  | 0x16 => [(1, 63, 2)]
  | 0x18 => [(1, 7, 6), (1, 15, 15), (1, 31, 29), (1, 63, 48)]
  | 0x19 => [(1, 63, 7)]
  | 0x20 => [(0, 47, 33)]
  | 0x21 => [(0, 63, 0)]
  | 0x22 => [(0, 7, 1), (0, 15, 14), (0, 63, 48), (1, 63, 33)]
  | _ => if c.isCollective then [(1, 15, 11), (1, 31, 24), (1, 47, 42), (1, 63, 59), (2, 63, 32)] else []

/-- Check 1 of R398. -/
def Cmd.rsvdOk (c : Cmd) : Bool := c.headerOk && (opRsvd c).all (fun f => zeroIn (c.op f.1) f.2.1 f.2.2)

/-- The cause of the first dispatch check that fails (R398), 0 where all pass. A pair of a twin-mode domain whose odd tile is OUT
executes no more (R375; log entry 91). -/
def State.dispatchCause (s : State) (c : Cmd) : Nat :=
  let w := c.word 0
  let onTile := fbit w 8
  let t := 48 * fld w 9 9 + fld w 15 10
  firstCause [
    orCause c.rsvdOk 1,
    orCause ((opWords c.opcode).isSome && (if onTile then opInTile c.opcode else opInRing c.opcode)) 28,
    orCause (!onTile || (decide (fld w 15 10 < 48) && s.tileOwner t == c.dom)) 20,
    orCause (!onTile || !(s.tileOut t || (s.rb (rTwinCtl c.dom) 0 && t % 2 == 0 && s.tileOut (t + 1)))) 27,
    orCause (!onTile || !(s.rb (rTwinCtl c.dom) 0 && t % 2 == 1)) 26,
    orCause (c.tallies.all (s.tallyOk c.dom)) 29,
    orCause (!c.boundZero || (c.bound == 0 && c.tokens == 0)) 1]

/-- RING_DISPATCH (R398, R403): the oldest entry of the fetch buffer enters its queue, or completes rejected; it waits for a
completion slot, and for a place in its queue where it passes. A poisoned entry is not executed (Table DI-5), and the
control words that the fetch engine uses are decoded. -/
def execRingDispatch (r : Nat) (s0 : State) : Host.Outcome State Fault Refusal :=
  let s := s0.seeSram .module
  let g := s.ring r
  match g.buf with
  | [] => .next s
  | (ws, ep) :: rest =>
    if !s.ringRuns r || s.freeSlots (s.ringCpl r) == 0 || s.cplState (s.ringCpl r) == 2 then .next s
    else
      let c : Cmd := ⟨s.pipe.nextId, r, g.ci, s.ringDom r, s.ringCpl r, (ws ++ List.replicate 8 0#64).take 8⟩
      let addr := (s.reg (rRingBase r)).toNat + 64 * (g.ci % s.ringLen r)
      if ep then .next (s.contained c.dom { cls := 2, src := 28, mkind := 3, mid := 0, addr, akind := 4, acc := 4 } [])
      else
        let k := s.dispatchCause c
        let took (s : State) : State :=
          { s.setRing r { g with ci := (g.ci + 1) % 2 ^ 32, buf := rest } with pipe :=
            { (s.setRing r { g with ci := (g.ci + 1) % 2 ^ 32, buf := rest }).pipe with nextId := s.pipe.nextId + 1 } }
        if k ≠ 0 then .next (((took s).complete c { status := 1, cause := k } false).fetchRing r)
        else if 256 ≤ (s.queue c.target).ents.length + b2n (s.smulHolds c.target) then .next s
        else .next (((took s).pushQueue c.target { cmd := c }).fetchRing r)

end Sys2Proof.Machine
end

