-- ==== Sys2Proof/Machine/Admit.lean ====
section
/-!
DEFINITION. A command at the head of its queue: commands of bound 0 (R55, R56, R409-R411), the admission test (R35-R41), waits that
are no deferrals (R118, R169, R270, R314, R347, R393), completion (R405).
-/
namespace Sys2Proof.Machine

/-! ### Commands of bound 0: each reads the entry at the head of its queue (Table DI-5) -/

/-- The head of a queue, if it is served and of an opcode. -/
def State.headOf (s : State) (q op : Nat) : Option QEnt :=
  match s.head q with
  | some h => if h.cmd.opcode = op ∧ s.headServed q h.cmd then some h else none
  | none => none

/-- NOP. -/
def execNop (q : Nat) (s0 : State) : Host.Outcome State Fault Refusal :=
  let s := s0.atHead q
  match s.headOf q 0x00 with
  | none => .next s
  | some _ => .next (s.completeHead q {})

/-- A WAIT is over: its condition holds, or a signal has released it (R409, R410). -/
def State.waitOver (s : State) (c : Cmd) : Bool := c.waitMet (s.tally (fld (c.op 1) 16 0)) || s.pipe.met.contains c.id

/-- WAIT (R410): it completes once its condition holds. -/
def execWait (q : Nat) (s0 : State) : Host.Outcome State Fault Refusal :=
  let s := s0.atHead q
  match s.headOf q 0x01 with
  | none => .next s
  | some h => if s.waitOver h.cmd then .next (s.completeHead q {}) else .next s

/-- WAIT_TIMEOUT (R410): at the `TIMEOUT`-th stoke with the condition still failing. -/
def execWaitTimeout (q : Nat) (s0 : State) : Host.Outcome State Fault Refusal :=
  let s := s0.atHead q
  match s.headOf q 0x01 with
  | none => .next s
  | some h =>
    let n := fld (h.cmd.op 1) 31 24
    if 0 < n ∧ n ≤ h.stokes ∧ !s.waitOver h.cmd then
      let ev := s.headEv q h.cmd 25 30
      .next ((s.completeHead q { status := 4, cause := 30 }).contained h.cmd.dom ev [])
    else .next s

/-- SIGNAL (R411): once every earlier command of its queue has completed. -/
def execSignal (q : Nat) (s0 : State) : Host.Outcome State Fault Refusal :=
  let s := s0.atHead q
  match s.headOf q 0x02 with
  | none => .next s
  | some h =>
    if s.runs.any (fun r => r.q == q) then .next s
    else .next ((s.signalFor h.cmd.dom (fld (h.cmd.op 0) 16 0) (fld (h.cmd.op 0) 63 32)).completeHead q {})

/-- PHASE (R55): the phase waits for the next stoke. -/
def execPhase (q : Nat) (s0 : State) : Host.Outcome State Fault Refusal :=
  let s := s0.atHead q
  match s.headOf q 0x03 with
  | none => .next s
  | some h =>
    let w := h.cmd.op 0
    .next ((s.modDom h.cmd.dom (fun x => { x with phaseNext := some (fld w 1 0, fld w 31 16) })).completeHead q {})

/-- Does the FRAME_MARK at the head of a queue take effect now (R56)? With `ALIGN` 1 it does at stoke `SKIP` + 1, also while its tile is
closed; with `ALIGN` 0 a closed tile holds it (log entry 88). -/
def State.marks (s : State) (q : Nat) (h : QEnt) : Bool :=
  let w := h.cmd.op 0
  h.cmd.opcode == 0x04 && (if fbit w 16 then s.headLive q h.cmd && decide (fld w 23 17 < h.stokes) else s.headServed q h.cmd)

/-- FRAME_MARK (R56). -/
def execFrameMark (q : Nat) (s0 : State) : Host.Outcome State Fault Refusal :=
  let s := s0.atHead q
  match s.head q with
  | none => .next s
  | some h =>
    let w := h.cmd.op 0
    if !s.marks q h then .next s
    else
      let s := s.setQueue q { s.queue q with markFrame := s.frameNo, markId := fld w 15 0 }
      let s := if fbit w 24 then s.signalFor h.cmd.dom (fld w 48 32) 1 else s
      .next (s.completeHead q {})

/-! ### Waits at the head of a queue -/

/-- Rows available to a decode HMUL: F - C (R117). -/
def State.decodeRows (s : State) (c : Cmd) : Nat :=
  (s.tally (fld (c.op 2) 16 0) - s.tally (fld (c.op 2) 48 32)).toNat

/-- The decode deadline in nanoseconds of frame time (R118). -/
def State.decodeDeadline (s : State) : Nat := s.periodNs * s.rf rFrameCtl 14 8 / 100

/-- Is a decode HMUL ready (R118)? -/
def State.decodeReady (s : State) (h : QEnt) : Bool :=
  let n := s.decodeRows h.cmd
  h.ready || decide ((dAt h.descs 2).N1 ≤ n) || (decide (s.decodeDeadline ≤ s.ftime) && decide (1 ≤ n))

/-- DECODE_DEADLINE (R118): frame time has come to the deadline; a decode HMUL with a row becomes ready. -/
def execDecodeDeadline (q : Nat) (s1 : State) : Host.Outcome State Fault Refusal :=
  let s0 := s1.atHead q
  match s0.headOf q oHmul with
  | none => .next s0
  | some h =>
    let s := s0.timeTo (s0.frame.stokeAt + s0.decodeDeadline)
    if h.cmd.decode ∧ h.loaded ∧ 1 ≤ s.decodeRows h.cmd then .next (s.setHead q { h with ready := true }) else .next s

/-- Does a transfer write an answer queue; of which context? -/
def QEnt.answerOf (h : QEnt) : Option Nat :=
  let d := dAt h.descs 1
  if h.cmd.opcode = oTransfer ∧ d.space = 3 then some (d.base % 64) else none

/-- A wait that is no deferral: for the Update stage to end (R270), for the domain to be IDLE (R314), for rows (R118), for a credit
(R169). -/
def State.headWaits (s : State) (h : QEnt) : Bool :=
  let c := h.cmd
  let st := s.stepState c.dom
  -- a continuation has been admitted before (R23, R270)
  let reads := s.readsParams c h.descs && h.cont.isNone
  let writing := c.opcode == oUpdate && (match s.runRecipe c with | some rc => rc.writesAny || rc.matrix | none => false)
  (reads && (st == 3 || st == 4) && !writing) || (writing && st != 0) ||
  (c.opcode == oHmul && c.decode && !s.decodeReady h) ||
  (match h.answerOf with | some k => (s.ctx k).credits == 0 | none => false)

/-! ### Admission -/

/-- Does the kindling ramp run for an HMUL admitted now (R52, R107)? -/
def State.ramps (s : State) (t : Nat) : Bool := !s.runs.any (fun r => r.unit == .hearth t && r.st != .executed) && s.coldArray (s.physOf t)

/-- What an instruction takes at admission beside its operands: ramp and ring rows of an HMUL (R52, R119, R120), epoch and biases of
a ROUTE (R165), stale blocks so far of a COMBINE (R177), header, slot and credit of an answer transfer (R169), the sequence number
of a collective (R335). -/
def State.takeSnap (s : State) (q : Nat) (h : QEnt) : State × List Nat :=
  let c := h.cmd
  if c.opcode = oHmul then
    let n := s.decodeRows c
    let m := (dAt h.descs 2).N1
    (s, [b2n (s.ramps q), if c.decode then min n m else m, (s.tally (fld (c.op 2) 48 32)).toNat,
      b2n (c.decode && decide ((dAt h.descs 1).N1 < n))])
  else if c.opcode = oRoute then
    (s, s.epoch c.ctxNo :: (List.range (s.experts c.ctxNo)).map (fun e => (s.bias c.ctxNo e).toNat))
  else if c.opcode = oCombine then (s, [(s.ctx c.ctxNo).stale])
  else if c.isCollective then
    let n := s.rf (rCgroupSeq c.group) 15 0
    let s := s.setRf (rCgroupSeq c.group) 15 0 ((n + 1) % 65536)
    (if c.ofStep && s.stepState c.dom == 1 then s.setStepState c.dom 2 else s, [n])
  else
    match h.answerOf with
    | none => (s, [])
    | some k =>
      let d := dAt h.descs 1
      let a := tileOf (if isTileQ q then some q else none) d.aux
      let b := s.tileBytesAt a.1 a.2 32
      let slot := s.freeSlot k
      (b.1.modCtx k (fun x => { x with credits := x.credits - 1,
                                       held := x.held ++ [(c.id, leNat b.2.1 % 65536, slot)] }),
        [k, slot, b2n b.2.2] ++ b.2.1.map BitVec.toNat ++
          (rangeFrom ((a.1 * tileBytes + a.2) / 8) ((a.2 + 31) / 8 - a.2 / 8 + 1)).filter (fun w => (b.1.mem.seeWord w).2.1))

/-- The head is admitted on a unit (R36): its tokens are granted, and it runs. -/
def State.admitHead (s : State) (q : Nat) (h : QEnt) (u : Unit') : State :=
  let c := h.cmd
  let z := s.zonesOf u c
  let n := s.tokensOf u c
  let t := s.takeSnap q h
  let s := (t.1.grant (if c.opcode = oUpdate then .grate else .general) n).popHead q
  s.addRun { cmd := c, q, unit := u, descs := h.descs, pages := h.pages, frame := s.frameNo, ftime := s.ftime,
             budNum := c.bound * 20, budDen := lowest s.zFreq z, tokens := n, zones := z, snap := t.2, cont := h.cont,
             stepNo := s.stepNo c.dom, deferT := h.deferT, deferP := h.deferP }

/-- The head can never be admitted (R40): it is rejected and its job faults. -/
def State.neverHead (s : State) (q : Nat) (h : QEnt) : State :=
  let ev := s.headEv q h.cmd 19 0
  (s.completeHead q { status := 1 }).contained h.cmd.dom ev []

/-- The token class of an instruction (R47). -/
def Cmd.cls (c : Cmd) : Cls := if c.opcode = oUpdate then .grate else .general

/-- The unit on which the head of a queue can be tested for admission: loaded, served, not waiting, its unit free. -/
def State.readyUnit (s : State) (q : Nat) (h : QEnt) : Option Unit' :=
  if h.cmd.boundZero || !s.headServed q h.cmd || (h.cmd.needsLoad && !h.loaded) || s.headWaits h then none else s.unitFor q h.cmd

/-- Does the head of a queue ask for tokens of a class that would be granted now (R36, R48)? -/
def State.asks (s : State) (q : Nat) (k : Cls) : Bool :=
  match s.head q with
  | none => false
  | some h =>
    match s.readyUnit q h with
    | none => false
    | some u =>
      h.cmd.cls == k && decide (0 < s.tokensOf u h.cmd) && !s.neverFits u h.cmd && s.fitsTime u h.cmd &&
        s.frame.damper.grants k (s.tokensOf u h.cmd)

/-- Does the rollback of a domain go on: its step is in ROLLBACK with no micro-command outstanding (R310, Table TS-6)? -/
def State.rollReady (s : State) (d : Nat) (st : StepSt) : Bool :=
  s.stepState d == 4 && st.rolling && s.ucmds d == 0 && !s.flt.fatal

/-- Is the rollback of a domain the next request at each stack whose journal holds entries of its step (R234)? -/
def State.rollFront (s : State) (d : Nat) (st : StepSt) : Bool :=
  st.stacks.all (fun k => (s.fifo k).isEmpty || s.serves1 (.roll d) k)

/-- Does a batch of a rollback name a stack that takes no rollback, having no working pair (R376)? -/
def State.rollStuck (s : State) (st : StepSt) : Bool := st.rollBatch.any (fun j => (s.pairs j.1).isEmpty)

/-- Does the rollback of a domain ask for the tokens of a batch that would be granted now (R310): none while it waits in the FIFOs, or
where a stack takes none? -/
def State.rollAsks (s : State) (d : Nat) : Bool :=
  match (s.dom d).step with
  | some st => s.rollReady d st && s.rollFront d st && !s.rollStuck st && !st.journal.isEmpty && !s.inGuard &&
      s.frame.damper.grants .grate st.rollTokens
  | none => false

/-- Does a request of the Grate class stand that would be granted now: the waiting batch (R49), a rollback, or a RUN? -/
def State.grateAsks (s : State) : Bool :=
  (!s.batchNext.isEmpty && s.frame.damper.grants .grate s.batchTokens) || (s.doms.map (·.1)).any s.rollAsks ||
  (rangeFrom 96 64).any (fun q => s.asks q .grate)

/-- Does another request come before one for tokens of queue q at this moment (R48): a link burst, then the Grate class, then tile
requests round-robin from logical tile `FRAME_NUMBER` mod 96? The other commands of ring queues have no place among the tiles. -/
def State.outranked (s : State) (q : Nat) (c : Cmd) : Bool :=
  let place (t : Nat) : Nat := (t + 96 - s.frameNo % 96) % 96
  s.linkAsks || (c.cls == .general && (s.grateAsks ||
    (isTileQ q && (List.range 96).any (fun t => decide (place t < place q) && s.asks t .general))))

/-- A decode HMUL that has been found ready stays ready (R118). -/
def State.latchReady (s : State) (q : Nat) (h : QEnt) : State :=
  if h.cmd.opcode = oHmul ∧ h.cmd.decode ∧ s.decodeReady h then s.setHead q { h with ready := true } else s

/-- What an admission test reads in the module's own state: the queue's head, the context whose biases, epoch or credits the instruction
takes, the frame scheduler and the Damper (R254, R366). -/
def State.seeAdmit (s0 : State) (q : Nat) : State :=
  let s := s0.seeHead q
  let s := match s.head q with
    | some h =>
      let s := if h.cmd.opcode = oRoute ∨ h.cmd.opcode = oCombine then s.seeSram (.context h.cmd.ctxNo) else s
      match h.answerOf with
      | some c => s.seeSram (.context c)
      | none => s
    | none => s
  s.useFd [.scheduler, .damper]

/-- INSTRUCTION_ADMIT (R36-R41): the head of a queue, loaded and served, on a free unit, is rejected, deferred with cause TIME or
POWER, or admitted. There is no test in the guard interval (R37). A request that others outrank in this moment is not tested
before theirs (R48; log entry 89). -/
def execInstructionAdmit (q : Nat) (s1 : State) : Host.Outcome State Fault Refusal :=
  let s0 := s1.seeAdmit q
  match s0.head q with
  | none => .next s0
  | some h0 =>
    match s0.readyUnit q h0 with
    | none => .next s0
    | some u =>
      if s0.inGuard then .next s0
      else
        let s := s0.latchReady q h0
        let h := (s.head q).getD h0
        let c := h.cmd
        if s.neverFits u c then .next (s.neverHead q h)
        else if !s.fitsTime u c then .next (s.deferHead q h false)
        else if !s.frame.damper.grants c.cls (s.tokensOf u c) then .next (s.deferHead q h true)
        else if s.tokensOf u c ≠ 0 ∧ s.outranked q c then .next s
        else .next (s.admitHead q h u)

/-- UPDATE_BATCH_ISSUE (R49, Table UE-4 steps 6 and 7): with its tokens granted, the batch goes to the Grate units; none is issued
in the guard interval (Table FR-1), nor before a link burst that asks in this moment (R48; log entry 89). -/
def execUpdateBatchIssue (s0 : State) : Host.Outcome State Fault Refusal :=
  let s := s0.useFd [.damper, .updater]
  let b := s.batchNext
  if b.isEmpty ∨ !s.frame.damper.grants .grate s.batchTokens ∨ s.inGuard ∨ s.flt.fatal then .next s
  else if s.batchTokens ≠ 0 ∧ s.linkAsks then .next s
  else .next (b.foldl State.issueUcmd (s.grant .grate s.batchTokens))

/-! ### Rollback -/

/-- Restore entries while the Damper grants a batch's tokens (R310): none in the guard interval (R34), nor before a link burst that asks
(R48). A stack with no working pair takes no rollback (R376): the job faults, and its step stays in ROLLBACK (log entry 93). -/
def State.rollbackGo : Nat → State → Nat → PMap → State
  | 0, s, _, _ => s
  | f + 1, s, d, m =>
    match (s.dom d).step with
    | none => s
    | some st =>
      if st.journal.isEmpty ∨ s.inGuard ∨ !s.frame.damper.grants .grate st.rollTokens ∨ s.linkAsks then s
      else if s.rollStuck st then s.contained d { cls := 2, src := 27, mkind := 3, mid := 3 } []
      else
        let s := st.rollBatch.foldl (fun s j => s.restore d m j) (s.grant .grate st.rollTokens)
        State.rollbackGo f (s.modStep d (fun st => { st with journal := st.journal.drop 256 })) d m

/-- What the Grate units restore now of a step in ROLLBACK, and its end once the journals are empty (R310, R311, Table TS-6). -/
def State.rollback (s0 : State) (d : Nat) (st : StepSt) : State :=
  let s := match s0.pmap d with
    | some m => State.rollbackGo (st.journal.length + 1) (s0.rebuildPtrs d m) d m
    | none => s0.modStep d (fun st => { st with journal := [] })
  -- a stack that takes no rollback does not hold one up in its FIFO
  let stuck := match (s.dom d).step with
    | some st => s.rollStuck st
    | none => false
  let s := if stuck then s.unask (.roll d) else s.askRoll d
  match (s.dom d).step with
  | none => s
  | some st =>
    if !st.journal.isEmpty then s
    else
      let s := (s.modDom d (fun x => { x with jptr := [], jbuf := [] })).endStep d (if st.abandoned then 3 else 1) 0
      if st.jrnlBad then s.contained d { cls := 2, src := 27, mkind := 3, mid := 3 } [] else s

/-- ROLLBACK_COMPLETE (R310, R311, Table TS-6): the before-images are restored as tokens allow, behind what came to the Grate units
before (R234); after the last one the journal is retired and the step ends. -/
def execRollbackComplete (d : Nat) (e : Env) (s0 : State) : Host.Outcome State Fault Refusal :=
  let s := s0.seeSram (.update d)
  match (s.dom d).step with
  | none => .next s
  | some st =>
    if !s.rollReady d st then .next s
    else if s.rollFront d st then .next ((s.upsets e).rollback d st)
    else .next (s.askRoll d)

/-! ### Completion -/

/-- The write counts of a kept execution join those of its domain (R207). -/
def State.countWrites (s : State) (d : Nat) (r : Res) : State :=
  ((s.bump (cWrOffered d) r.offered).bump (cWrDone d) r.done).bump (cOobWrite d) r.dropped

/-- What a kept execution leaves in its tallies: `TAKE_TALLY` (R119), a ROUTE's demand (R165). An HMUL that completes rejected with MASK leaves
`TAKE_TALLY` as it is (log entry 127). -/
def State.afterRun (s : State) (r : Run) : State :=
  let c := r.cmd
  if c.opcode = oHmul then
    if c.decode && decide (r.res.status ≠ 1) then s.signalFor c.dom (fld (c.op 2) 48 32) (r.snap.getD 1 0) else s
  else if c.opcode = oRoute ∧ r.res.status ≠ 1 then s.routeDone r
  else s

/-- An SMUL with rows left goes back to the head of its queue as a continuation (R137); what has been counted as deferred in this frame
is not counted again (R36). -/
def State.continueRun (s : State) (r : Run) : State :=
  let v := s.queue r.q
  let now := r.frame == s.frameNo
  s.setQueue r.q { v with ents := { cmd := r.cmd, loaded := true, descs := r.descs, pages := r.pages, cont := r.cont
                                    deferT := now && r.deferT, deferP := now && r.deferP } :: v.ents }

/-- The outcome of a run, with what the continuations before it kept (R137, R139). -/
def Run.outcome (r : Run) : Res :=
  match r.cont with
  | some k => if r.res.status = 0 ∨ r.res.status = 2 then
      { r.res with flags := k.flags, poison := k.poison, pAt := k.pAt, status := if k.poison = 0 then 0 else 2 } else r.res
  | none => r.res

/-- COMMAND_COMPLETE (R405): the kept execution ends. A poisoned one faults its job after its record (R251). -/
def execCommandComplete (id : Nat) (s0 : State) : Host.Outcome State Fault Refusal :=
  let s := s0.useFd [.scheduler]
  match s.findRun id with
  | none => .next s
  | some r =>
    if r.st ≠ .executed ∨ s.flt.fatal then .next s
    else
      let s := ((s.countWrites r.cmd.dom r.res).dropRun id).drainSwaps
      if r.unfinished then .next (s.continueRun r)
      else
        let o := r.outcome
        let s := ((s.joinTileFlags r.unit o.flags).afterRun r).complete r.cmd o r.replayed
        if o.status = 2 then
          .next ((s.bump (cPoisonRead r.cmd.dom) o.poison).contained r.cmd.dom
            { s.runEv r 16 0 with addr := o.pAt.1, akind := o.pAt.2.1, acc := o.pAt.2.2 } [])
        else .next s

end Sys2Proof.Machine
end

