-- ==== Sys2Proof/Machine/Silent.lean ====
section
/-!
DEFINITION. Patrol scrub and die marks (R242, R243, R253-R256), write-back queues (R246), in-field tests (R380-R382), zeroing of
tile stores (R214).
-/
namespace Sys2Proof.Machine

/-! ### Die marks -/

/-- Mark a die of a stack failed (R242), a Corrected event (Table FC-2); a second one is Fatal, and the stack decodes strictly from then
on (R243). -/
def State.markDie (s : State) (st k count : Nat) : State :=
  match s.marked st with
  | none =>
    let s := s.setReg (rDieFailed st) (BitVec.ofNat 64 (k % 32 + 2 ^ 5))
    let s := s.markHealth .die st k
    let s := s.corrected 2 (st * 2 ^ 36) 2 { kind := 2, id := st }
    (s.logRec 3 ([BitVec.ofNat 8 st, BitVec.ofNat 8 k] ++ leBytes 4 count)).replacement 1 st
  | some f =>
    if f = k then s
    else (s.setRb (rDieFailed st) 8 true).fatal { cls := 3, src := 51, mkind := 2, mid := st }

/-! ### Patrol scrub -/

/-- Period of a pass in nanoseconds (Table DI-6). -/
def State.scrubPeriod (s : State) (w : ScrubStore) : Nat :=
  match w with
  | .stack _ => s.rf rIntegCtl 23 16 * 3600000000000
  | _ => s.rf rIntegCtl 33 24 * 100000000

/-- A pass ends, and the next begins. -/
def State.endPass (s : State) (w : ScrubStore) : State :=
  let k := (scrubKey w)
  let g := s.integ
  { s with integ := { g with pos := Tab.set natReset g.pos k 0, began := Tab.set natReset g.began k s.now,
                             late := g.late.filter (· != k), passErr := if k < 24 then Tab.dropRange g.passErr (18 * k) 18 else g.passErr } }

def State.setPos (s : State) (w : ScrubStore) (p : Nat) : State :=
  { s with integ := { s.integ with pos := Tab.set natReset s.integ.pos (scrubKey w) p } }

/-- The next block from `b` on of a stack that holds data (R255). -/
def Mem.nextValid (m : Mem) (st b : Nat) : Option Nat :=
  (m.valid.filter (fun e => decide (e.1 / 2 ^ 22 = st ∧ b / 64 ≤ e.1))).findSome? (fun e =>
    ((List.range 64).map (64 * e.1 + ·)).find? (fun k => decide (b ≤ k) && m.blkValid k))

/-- Scrub of one block (R255, R242): a correction is written back and counts toward the mark of its die. -/
def State.scrubBlk (s : State) (e : Env) (st b : Nat) : State :=
  let d := s.decode b
  let s := (s.readBlk (inBase e) b ⟨2, st, 1⟩).1
  match d.1 with
  | .fixed k =>
    let s := s.normBlk b
    let n := Tab.get natReset s.integ.passErr (18 * st + k) + 1
    let s := { s with integ := { s.integ with passErr := Tab.set natReset s.integ.passErr (18 * st + k) n } }
    if s.rf rIntegCtl 15 0 ≤ n then s.markDie st k n else s
  | _ => s

/-- Who scrubs a tile store: its tile (Table FC-3). -/
def State.tileBy (s : State) (k : Nat) : By := ⟨1, (s.master (.tdma (k / tileWords))).2, 1⟩

/-- Scrub of one tile-store word (R255, R256). -/
def State.scrubWord (s : State) (k : Nat) : State :=
  match s.mem.seeWord k with
  | (_, _, .clean) => s
  | (v, p, .fixed _) =>
    let s := (s.bump cSramCe 1).corrected 1 (wordAddr k) 3 (s.tileBy k)
    s.setMem (s.mem.putWord k v p)
  | (_, _, .bad) => (s.bump cSramUe 1).setMem (s.mem.putWord k 0#64 true)

/-- The place of a word of other SRAM in the order of its pass: its structure, then its number there. -/
def wordNo : ScrubStore × Nat → Nat
  | (.stack k, n) | (.tile k, n) | (.validMap k, n) | (.queue k, n) | (.cocoon k, n) | (.context k, n) | (.update k, n) | (.leaves k, n) | (.port k, n) =>
    k * 2 ^ 32 + n
  | (.module, n) | (.chimney, n) => n

/-- The lowest word at or above a position that holds errors, of the kind of store of a pass. -/
def Integ.nextErr (g : Integ) (w : ScrubStore) : Option ((ScrubStore × Nat) × BitVec 80) :=
  let p := Tab.get natReset g.pos (scrubKey w)
  (g.errs.filter (fun r => scrubKey r.1.1 == scrubKey w && decide (p ≤ wordNo r.1))).foldl (fun b r =>
    match b with
    | some q => if wordNo r.1 < wordNo q.1 then some r else b
    | none => some r) none

/-- Scrub of a kind of SRAM other than stacks and tile stores reads its words in turn, on to the next one with an error (R246, R255): a
correction is counted and written back, an uncorrectable word is handled by Table DI-5; with none left the pass ends. -/
def State.scrubSram (s : State) (w : ScrubStore) : State :=
  match s.integ.nextErr w with
  | none => s.endPass w
  | some r => (s.seeErr true r).setPos w (wordNo r.1 + 1)

/-- PATROL_SCRUB (R253-R256): the next block or word of a store; of a stack when the request of the base-die control is served by the
Grate unit (R234); in other SRAM `uncorrectable` says that the word read is one whose
errors lie outside what the model keeps. -/
def execPatrolScrub (w : ScrubStore) (uncorrectable : Bool) (e : Env) (s0 : State) : Host.Outcome State Fault Refusal :=
  if !s0.pwr.stoked then .next s0
  else
    let s := s0.upsets e
    let p := Tab.get natReset s.integ.pos (scrubKey w)
    match w with
    | .stack st =>
      let s := s.ask .scrub st
      if !s.serves1 .scrub st then .next s
      else
        let s := s.setFifo st ((s.fifo st).drop 1)
        (match s.mem.nextValid st (2 ^ 28 * st + p) with
         | none => .next (s.endPass w)
         | some b => .next ((s.scrubBlk e st b).setPos w (b + 1 - 2 ^ 28 * st)))
    | .tile t =>
      let s := s.scrubWord (t * tileWords + p)
      if tileWords ≤ p + 1 then .next (s.endPass w) else .next (s.setPos w (p + 1))
    | _ => .next (if uncorrectable then s.sramLost w 0 else s.scrubSram w)

/-- SCRUB_LATE (R256): a pass has not finished within its period; it is counted once and continues. -/
def execScrubLate (w : ScrubStore) (s : State) : Host.Outcome State Fault Refusal :=
  if !s.pwr.stoked ∨ s.integ.late.contains (scrubKey w) then .next s
  else
    let s := s.timeTo (Tab.get natReset s.integ.began (scrubKey w) + s.scrubPeriod w)
    .next (({ s with integ := { s.integ with late := (scrubKey w) :: s.integ.late } } : State).bump cScrubLate 1)

/-- A kind of SRAM outside the tile stores writes its oldest queued word back (R246). -/
def State.sramBack (s : State) (k : Nat) : State :=
  match Tab.get wordsReset s.integ.wbq k with
  | [] => s
  | w :: _ =>
    let s := s.unqueue w
    match s.integ.errs.find? (fun r => r.1 == w) with
    | some r => (match bchDecode r.2.toNat with
      | .fixed f => (s.dropErr r).wordLeft w.1 w.2 (r.2.toNat ^^^ f)
      | _ => s)
    | none => s

/-- SRAM_WRITE_BACK (R246): a bank writes its oldest queued word back, unless a write has reached the word since; `tile` 96 names the SRAM
outside the tile stores, `bank` its kind, from `scrubKey` 128 on (log entry 98). -/
def execSramWriteBack (tile bank : Nat) (s : State) : Host.Outcome State Fault Refusal :=
  if tile = 96 then .next (s.sramBack (128 + bank))
  else
  let i := 32 * tile + bank
  match Tab.get listReset s.mem.wbq i with
  | [] => .next s
  | k :: rest =>
    let s := s.setMem { s.mem with wbq := Tab.set listReset s.mem.wbq i rest }
    match s.mem.seeWord k with
    | (v, p, .fixed _) => .next (s.setMem (s.mem.putWord k v p))
    | _ => .next s

/-! ### In-field tests -/

def State.testPeriod (s : State) : Nat := s.rf rSeCtl 23 16 * 3600000000000

/-- The due times of a die's 52 tiles are spread evenly over the period that begins now (R380, R462; log entry 90). -/
def State.staggerTests (s : State) : State :=
  (List.range 104).foldl (fun s j =>
    { s with tiles := { s.tiles with dueAt := Tab.set natReset s.tiles.dueAt j (s.now + (j % 52 + 1) * s.testPeriod / 52 + 1) } }) s

/-- Does a SPARE tile serve a replay now (R368, R380)? -/
def State.serves (s : State) (j : Nat) : Bool := s.runs.any (fun r => r.st == .detected && r.replayTile == some j)

/-- A SPARE tile that is due starts its test when it is free (R380); the die may have no SPARE left then (R379). -/
def State.startTest (s : State) (j : Nat) : State :=
  if s.tileState j == 1 && (s.spares (j / 52)).contains j && !s.serves j && !s.dieTests (j / 52) then
    let s := (s.setTileState j 2 0)
    let s := { s with tiles := { s.tiles with testing := s.tiles.testing ++ [(j, 0, false)], due := s.tiles.due.filter (· != j) } }
    s.checkSpares (j / 52)
  else s

/-- TEST_DUE (R380): a tile falls due at its time; the next time is one period later. -/
def execTestDue (die phys : Nat) (s0 : State) : Host.Outcome State Fault Refusal :=
  let j := 52 * die + phys
  let t := Tab.get natReset s0.tiles.dueAt j
  if t = 0 then .next s0
  else
    let s := s0.timeTo (t - 1)
    let s := { s with tiles := { s.tiles with dueAt := Tab.set natReset s.tiles.dueAt j (t + s.testPeriod),
                                              due := if s.tiles.due.contains j then s.tiles.due else s.tiles.due ++ [j] } }
    .next (s.startTest j)

/-- Stokes that a tile has been test-pending. -/
def State.pendingFor (s : State) (j : Nat) : Option Nat := (s.tiles.tpend.find? (fun p => p.1 == j)).map (·.2)

/-- TEST_GRACE_EXPIRY (R381): at the stoke on which the grace ends, admission to the tile stops while its die has a SPARE; it is
swapped when its last instruction has completed. -/
def execTestGraceExpiry (die tile : Nat) (s : State) : Host.Outcome State Fault Refusal :=
  let t := 48 * die + tile
  match s.pendingFor (s.physOf t) with
  | none => .next s
  | some n =>
    if n < s.rf rSeCtl 47 32 ∨ !s.hasSpare die ∨ s.dieTests die ∨ s.tiles.drains.contains t then .next s
    else .next ({ s with tiles := { s.tiles with drains := s.tiles.drains ++ [t] } } : State).drainSwaps

/-- A natural gap (R381): nothing runs on the tile, and its queue is empty or its head waits on a tally, on rows or on a credit. -/
def State.naturalGap (s : State) (t : Nat) : Bool :=
  !s.runs.any (fun r => s.occupies r t) &&
  (match s.head t with
   | none => true
   | some h => (h.cmd.opcode == 0x01 && !s.waitOver h.cmd) || (h.cmd.opcode == oHmul && h.cmd.decode && !s.decodeReady h) ||
       (match h.answerOf with | some k => (s.ctx k).credits == 0 | none => false))

/-- The test-pending tiles at a stoke (R381); a drained one whose gap comes here has been drained all the same. -/
def State.stokePending (s : State) : State :=
  s.tiles.tpend.foldl (fun s p =>
    let j := p.1
    let drop (s : State) : State := { s with tiles := { s.tiles with tpend := s.tiles.tpend.filter (fun (u : Nat × Nat) => u.1 != j) } }
    if s.tileState j ≠ 0 then drop s
    else if s.tiles.swaps.any (fun w => w.2.1 == j) then s
    else
      let n := p.2 + 1
      let s := { s with tiles := { s.tiles with tpend := s.tiles.tpend.map (fun (u : Nat × Nat) => if u.1 == j then (j, n) else u) } }
      let t := 48 * (j / 52) + s.rf (rTileHealth j) 7 2
      if !s.hasSpare (j / 52) then
        let s := s.setRb rSeCtl 48 true
        if s.rf rSeCtl 47 32 ≤ n then s.bump cTestLate 1 else s
      else if s.naturalGap t then s.testSwap j (s.tiles.drains.contains t)
      else s) s

/-- Tiles that are due at a stoke (R380, R381): an ACTIVE one becomes test-pending, a free SPARE starts. -/
def State.stokeDue (s : State) : State :=
  s.tiles.due.foldl (fun s j =>
    if s.tileState j = 0 then
      { s with tiles := { s.tiles with due := s.tiles.due.filter (· != j),
                                       tpend := if s.tiles.tpend.any (fun p => p.1 == j) then s.tiles.tpend else s.tiles.tpend ++ [(j, 0)] } }
    else if s.tileState j = 1 then s.startTest j
    else if s.tileState j = 3 then { s with tiles := { s.tiles with due := s.tiles.due.filter (· != j) } }
    else s) s

/-- Tokens of one frame of a test: 60 W over the period (R382). -/
def State.testTokens (s : State) : Nat := 60 * s.rf rStokePeriod 12 0

/-- The tiles in TEST at a stoke (R382): a granted frame is done; the third ends the test, which `fails` may fail at a program
step; each other asks for its tokens before any instruction. -/
def State.stokeTests (s : State) (fails : List (Nat × Nat × Nat)) : State :=
  s.tiles.testing.foldl (fun s t =>
    let j := t.1
    let n := t.2.1 + b2n t.2.2
    let put (s : State) (l : List (Nat × Nat × Bool)) : State :=
      { s with tiles := { s.tiles with testing := s.tiles.testing.flatMap (fun u => if u.1 == j then l else [u]) } }
    if 3 ≤ n then
      let s := put s []
      match fails.find? (fun f => 52 * f.1 + f.2.1 == j) with
      | some f => s.quarantine j j (leBytes 4 f.2.2)
      | none => s.setTileState j 1 0
    else if s.frame.damper.grants .general s.testTokens then put (s.grant .general s.testTokens) [(j, n, true)]
    else put s [(j, n, false)]) s

/-! ### Tile stores -/

/-- TILE_STORE_ZEROED (R214): the store is zero, and the new owner is admitted. -/
def execTileStoreZeroed (die tile : Nat) (s : State) : Host.Outcome State Fault Refusal :=
  let t := 48 * die + tile
  if s.tiles.zeroing.contains t then
    .next ({ s with tiles := { s.tiles with zeroing := s.tiles.zeroing.filter (· != t) } } : State)
  else .next s

end Sys2Proof.Machine
end

