-- ==== Sys2Proof/Machine/Stoke.lean ====
section
/-!
DEFINITION. The stoke and the guard interval (Table FR-1): overruns (R42-R44), gate mode (R54), profiles (R55), the clears of
faults (R422), markers (R337), ledger audits (R430, R431), the watchdog (R362); samples of power and temperature (R51, R63), SMOKE_N
and EMBER (R428, R429), the timers of vectors (R414).
-/
namespace Sys2Proof.Machine

/-! ### Overruns -/

/-- Can the run overrun: everything but a collective after its set-up (R347)? -/
def Run.crosses (r : Run) : Bool := !(r.cmd.isCollective && r.st != .admitted)

/-- Does a replay run (R369)? -/
def Run.isReplay (r : Run) : Bool := r.st == .detected || r.replayed

/-- The record and the count of an instruction that crosses its first stoke (R42, R369). -/
def State.firstCross (s : State) (r : Run) : State :=
  if r.isReplay then s.bump cReplayOverrun 1
  else (s.setReg rOverrunRec (BitVec.ofNat 64 (r.frame % 2 ^ 48 + r.q * 2 ^ 48 + 2 ^ 63))).bump
    (if r.throttled then cOverrunThrottle else cOverrun) 1

/-- Every run that can overrun crosses the stoke (R42, R44). -/
def State.stokeOverruns (s : State) : State :=
  let s := (s.runs.filter (fun r => r.crosses && r.crossed == 0)).foldl State.firstCross s
  s.setRuns (s.runs.map (fun r => if r.crosses then { r with crossed := r.crossed + 1 } else r))

/-- Carry charges of the instructions that overrun this stoke (R43); a replay is charged under R369 only. -/
def State.carrySum (s : State) : Nat :=
  ((s.runs.filter (fun r => r.crosses && !r.isReplay && decide (0 < r.crossed))).map s.carryOf).sum

/-- OVERRUN_LIMIT (R44): an overrun that no throttle caused has crossed `OVERRUN_LIMIT` stokes. -/
def execOverrunLimit (id : Nat) (s : State) : Host.Outcome State Fault Refusal :=
  match s.findRun id with
  | none => .next s
  | some r =>
    if r.crosses ∧ !r.throttled ∧ s.rf rFrameCtl 7 0 ≤ r.crossed then .next (s.contained r.cmd.dom (s.runEv r 20 0) [])
    else .next s

/-! ### Settings that take effect at a stoke -/

/-- A written gate mode takes effect, or is refused (R54). -/
def State.stokeGate (s : State) : State :=
  if !s.frame.gateWaits then s
  else
    let s := { s with frame := { s.frame with gateWaits := false } }
    if s.rb rPowerCtl 40 && decide (2000 < s.rf rPowerCtl 11 0) then (s.setRb rPowerCtl 40 false).setRb rPowerCtl 41 true
    else { s with frame := { s.frame with legacy := s.rb rPowerCtl 40 } }

/-- Load a phase profile (R55). -/
def State.loadProfile (s : State) (n : Nat) : State :=
  let s := (s.setRf rPowerCtl 22 16 (s.rf (rPhaseProfile n) 6 0)).setRf rPowerCtl 30 24 (s.rf (rPhaseProfile n) 14 8)
  (List.range zoneCount).foldl (fun s z =>
    s.setRf (rZoneFreqTgt z) 5 0 (s.rf (rPhaseProfile n + 8 + 8 * (z / 8)) (8 * (z % 8) + 5) (8 * (z % 8)))) s

/-- Phases that were issued take effect (R55). -/
def State.stokePhases (s : State) : State :=
  (s.doms.map (·.1)).foldl (fun s d =>
    match (s.dom d).phaseNext with
    | none => s
    | some p =>
      let s := s.modDom d (fun x => { x with phase := p.1, userTag := p.2, phaseNext := none })
      if s.rb rFrameCtl 24 && s.rf rFrameCtl 23 16 == d then s.loadProfile p.1 else s) s

/-- Weights written take effect at a stoke (R230): those that differ from the reset value, in order. -/
def State.stokeWeights (s : State) : State :=
  let w := s.regs.filterMap (fun e =>
    if 0x00220000 ≤ e.1 ∧ e.1 < 0x00238000 ∧ 0x400 ≤ e.1 % 0x1000 then
      some (128 * ((e.1 - 0x00220000) / 0x1000) + (e.1 % 0x1000 - 0x400) / 8, fld e.2 3 0)
    else none)
  { s with frame := { s.frame with weights := w } }

/-- Heads of queues have seen one more stoke (R56, R410), unless an SMUL with rows left stands before them (R137); deferrals count anew
(R36). -/
def State.stokeQueues (s : State) : State :=
  { s with pipe := { s.pipe with queues := s.pipe.queues.map (fun e =>
      (e.1, { e.2 with ents := (e.2.ents.zipIdx).map (fun h =>
        { h.1 with stokes := if h.2 = 0 ∧ !s.smulHolds e.1 then h.1.stokes + 1 else 0, deferT := false, deferP := false }) })) } }

/-! ### Clearing a fault -/

/-- Does the clear of a domain wait no more (R422)? -/
def State.clearable (s : State) (d : Nat) : Bool :=
  s.stepState d == 0 && !s.runs.any (fun r => r.cmd.dom == d) && s.ucmds d == 0

/-- Counters of a domain's ledger (Table FC-5). -/
def ledgerTerms (d : Nat) : Nat → List Nat
  | 3 => [cWrOffered d, cWrDone d, cOobWrite d]
  | 4 => [cUpdArrived d, cUpdIssued d, cUpdDone d, cUpdFrozen d, cUpdNomap d, cStepDiscard d]
  | 9 => (List.range 4).flatMap (fun i => (rangeFrom 1 9).map (rCledger d i))
  | _ => []

/-- The domain returns to service (R422): first-error record, mismatched ledgers, fetch. -/
def State.clearFault (s : State) (d : Nat) (resume : Bool) : State :=
  let s := s.setRb (rDomCtl d) 2 false
  let s := s.setRegs (rDomFirstErr d) (List.replicate 8 0#64)
  let bad := (s.flt.badLedgers.filter (fun b => b.1 == d)).map (fun b => b.2 % 16)
  let s := (bad.flatMap (ledgerTerms d)).foldl (fun s o => s.setReg o 0#64) s
  let s := if bad.contains 9 then { s with fab := { s.fab with closedBlks := s.fab.closedBlks.filter (fun e => e.1.1 != d) } } else s
  let s := { s with flt := { s.flt with badLedgers := s.flt.badLedgers.filter (fun b => b.1 != d) } }
  (List.range 64).foldl (fun s r =>
    if s.rb (rRingCfg r) 0 && s.ringDom r == d then
      let s := if resume then s else s.setRing r { s.ring r with ci := (s.ring r).pi }
      s.fetchRing r
    else s) s

/-- Clears that wait for this stoke (R422). -/
def State.stokeClears (s : State) : State :=
  s.flt.clears.foldl (fun s c =>
    if s.clearable c.1 then
      ({ s with flt := { s.flt with clears := s.flt.clears.filter (fun (u : Nat × Bool) => u.1 != c.1) } } : State).clearFault c.1 c.2
    else s) s

/-! ### Markers, the watchdog -/

/-- The marker of this stoke (Table CF-10). -/
def State.marker (s : State) : Marker :=
  let sw := s.frame.switch.getD (0, 0)
  { frame := s.frameNo, offsetPs := (s.now - s.frame.stokeAt) * 1000, period := s.rf rStokePeriod 12 0,
    hops := if s.rangeState = 3 then 0 else s.rf rRangeStatus 6 2, nextPeriod := sw.1, switchFrame := sw.2, sealMap := s.fab.sealMap }

/-- The master and every member send the marker on the ports of the downstream mask (R337). -/
def State.sendMarkers (s : State) : State :=
  if s.rangeState = 2 ∨ s.rangeState = 3 then
    ((List.range 18).filter (fun p => bit (s.rf rRangeCtl 41 24) p)).foldl (fun s p => s.sendCtrl p 0 s.marker.bytes) s
  else s

/-- Does the arrival watchdog watch the run: a standing collective, a consumer of a stream whose next byte has not come (R362)? -/
def State.watches (s : State) (r : Run) : Bool :=
  r.st == .standing || (r.st == .admitted && r.streams.any (fun n => decide (s.streamAvail n.1 < r.wants n)))

/-- Does the READY of a domain's STEP_SEAL wait for an UP port or for credit (R333, R362)? -/
def State.readyWaits (s : State) (d : Nat) (st : StepSt) : Bool :=
  st.sealId.isSome && (s.fab.waiting.any (st.ownReady d) || (List.range 18).any (fun p => (s.port p).sendq.any (st.ownReady d)))

/-- The watchdog at a stoke (R362): runs, then STEP_SEALs. -/
def State.stokeWatch (s : State) : State :=
  let t := s.setRuns (s.runs.map (fun r =>
    if s.watches r then { r with idle := if r.arrived then 0 else r.idle + 1, arrived := false } else { r with idle := 0, arrived := false }))
  (s.doms.map (·.1)).foldl (fun t d =>
    match (s.dom d).step with
    | some st =>
      if st.waits = 0 ∧ !st.heard ∧ !s.readyWaits d st then t
      else t.modStep d (fun x => { x with waits := if s.readyWaits d st && !x.heard then x.waits + 1 else 0, heard := false })
    | none => t) t

/-- The event of a command that waits at the head of its queue. -/
def State.waitEv (s : State) (id src : Nat) : Ev :=
  ((List.range 160).findSome? (fun q => match s.head q with
    | some h => if h.cmd.id = id then some (s.headEv q h.cmd src 0) else none
    | none => none)).getD { cls := 2, src, mkind := 3, mid := 2, acc := 8 }

/-- The domain whose STEP_SEAL has waited `STALL_FRAMES` frames for a port. -/
def State.sealStalled (s : State) (id : Nat) : Option Nat :=
  (s.doms.map (·.1)).find? (fun d => match (s.dom d).step with
    | some st => st.sealId == some id && decide (0 < st.waits ∧ s.rf rCfCtl 7 0 ≤ st.waits)
    | none => false)

/-- ARRIVAL_WATCHDOG (R362): `STALL_FRAMES` frames without an arrival or a credit fault the job; a stream's burst is given up. -/
def execArrivalWatchdog (id : Nat) (s : State) : Host.Outcome State Fault Refusal :=
  match s.findRun id with
  | none =>
    match s.sealStalled id with
    | some d => .next (s.contained d (s.waitEv id 21) [])
    | none => .next s
  | some r =>
    if s.watches r ∧ s.rf rCfCtl 7 0 ≤ r.idle ∧ 0 < r.idle then
      let n := match s.findColl id with
        | some c => if c.toStream && c.rank != c.root then [c.stream] else []
        | none => r.streams.map (fun (u : Nat × Nat) => u.1)
      .next (n.foldl State.resetStream (s.contained r.cmd.dom (s.runEv r 21 0) []))
    else .next s

/-! ### The stoke -/

/-- The host interface at a stoke (R400, R406, R414). -/
def State.stokeHost (s : State) : State :=
  let s := s.writeStatus
  let s := (List.range 256).foldl (fun s v =>
    if s.pbaBit v && !Tab.get boolReset s.host.immediate v && !s.masked v then s.sendMsix v else s) s
  if s.anyRing then
    { s.post (.doorbellRead (s.reg rDoorbellBase).toNat) with host := { (s.post (.doorbellRead (s.reg rDoorbellBase).toNat)).host with dbAsked := true, dbAt := s.now } }
  else s

/-- The frame that a stoke begins: number, period and time (R30-R33); a member takes them from its marker or holdover (R338, R340;
log entry 55). `none`: no stoke falls here now. -/
def State.beginFrame (s : State) : Option State :=
  if !s.pwr.stoked then none
  else
    let next : Option State :=
      if s.rangeState = 2 then
        (if s.fab.marked then some { s with fab := { s.fab with marked := false } } else none)
      else
        let at' := s.frame.stokeAt + s.periodNs
        let p := s.nextPeriod
        let s := ((s.timeTo at').setRf rFrameNumber 47 0 ((s.frameNo + 1) % 2 ^ 48)).setRf rStokePeriod 12 0 p
        some { s with frame := { s.frame with stokeAt := at' } }
    next.map (fun s =>
      let sw := match s.frame.switch with
        | some (p, f) => if f = s.frameNo then none else some (p, f)
        | none => none
      { s with frame := { s.frame with switch := sw, guard := false } })

/-- The actions of a stoke (Table FR-1): overruns, settings, the pool, tests before instructions, zones, the seal, what goes to the
range and to the host. A profile that is loaded here governs the reserves and zone changes of this same stoke (R55; log entry 99). -/
def State.stokeActions (s : State) (fails : List (Nat × Nat × Nat)) : State :=
  let s := s.stokeOverruns
  let s := s.stokeGate.stokePhases
  let s := s.stokeDamper s.carrySum
  let s := ((s.stokeTests fails).stokePending.stokeDue.drainSwaps).stokeZones.stokeWeights
  let s := s.stokeClears
  let s := s.sendMarkers.sealStoke s.fab.sealMap
  let s := ({ s with fab := { s.fab with sealMap := [], sinceEcho := s.fab.sinceEcho + 1 } } : State).sampleReady
  let s := s.stokeWatch.stokeQueues.countEvents
  let s : State := { s with fab := { s.fab with standing := (s.fab.colls.filter (fun c => opReduces c.op)).length },
                            flt := { s.flt with reported := [] } }
  let s := s.fab.colls.foldl (fun s c => s.grantWindows c.id) s
  s.stokeHost

/-- What the frame scheduler holds is used at a stoke: its control words are decoded (R246, Table DI-5), its datapath checked (R366). -/
def State.seeStoke (s : State) : State := s.useFd [.scheduler]

/-- A source may be recorded once more in the new frame (R425). -/
def State.newReports (s : State) : State := { s with flt := { s.flt with reported := [] } }

/-- STOKE (R30-R34, Table FR-1). After a Fatal fault only the frame counts on (R423), and each frame's first Corrected and Replayed events are
recorded (R425). -/
def execStoke (testsFailed : List (Nat × Nat × Nat)) (s : State) : Host.Outcome State Fault Refusal :=
  match s.beginFrame with
  | none => .next s
  | some t => if t.flt.fatal then .next t.newReports else if t.seeStoke.flt.fatal then .next t.seeStoke.newReports else .next (t.seeStoke.stokeActions testsFailed)

/-- RESERVE_RELEASE (R47): at half the period the unspent reserves join the general pool. -/
def execReserveRelease (s0 : State) : Host.Outcome State Fault Refusal :=
  let s := s0.useFd [.scheduler, .damper]
  if !s.pwr.stoked ∨ s.frame.released ∨ s.flt.fatal then .next s
  else
    let s := s.timeTo (s.frame.stokeAt + s.periodNs / 2)
    let d := s.frame.damper
    .next { s with frame := { s.frame with released := true,
                                           damper := { d with general := d.general + d.link + d.grate, link := 0, grate := 0 } } }

/-! ### Ledgers -/

/-- Leaf slots that the standing reductions hold (R364). -/
def State.leafSlots (s : State) : Nat := (s.fab.colls.map (fun c => c.leaves.length * slotsOf c.ety)).sum

/-- Bytes of the open burst that have come (R364). -/
def Stream.came (t : Stream) : Nat :=
  16 * t.got.length - (match t.total with | some b => 16 * ceilDiv b 16 - b | none => 0)

/-- Late slots held of a ledger entry of a domain (Table CF-14): its windows are those of the newest entry of the step. -/
def State.heldSlots (s : State) (d i : Nat) : Nat :=
  let step := s.rf (rCledger d i 0) 31 0
  if s.cledIx d step = some i then ((s.fab.lates.filter (fun w => w.dom == d && w.step == step)).map (·.held.length)).sum else 0

/-- Blocks closed of the step that a ledger entry is of (R358); an older entry of the same step number is not held to them. -/
def State.closedOf (s : State) (d i : Nat) : Nat :=
  let step := s.rf (rCledger d i 0) 31 0
  if s.cledIx d step = some i then
    (((s.fab.closedBlks.find? (fun e => e.1 == (d, step))).map (·.2)).getD 0) % 2 ^ 48
  else s.rf (rCledger d i 9) 47 0

/-- The identities of one entry of the contribution ledger (Table CF-14). -/
def State.cledOk (s : State) (d i : Nat) : Bool :=
  let w (k : Nat) := s.rf (rCledger d i k) 47 0
  let m := 2 ^ 48
  !s.rb (rCledger d i 0) 32 ||
  (w 1 == (w 2 + w 3) % m && w 3 == (w 4 + w 5 + w 6 + w 7 + w 8) % m && w 4 == s.heldSlots d i && w 9 == s.closedOf d i)

/-- Does a ledger of Table FC-5 balance? `i` is its instance: context, domain, stream, die, completion ring; ledger 5 has 8 x port
+ channel. -/
def State.ledgerOk (s : State) (n i : Nat) : Bool :=
  let m := 2 ^ 48
  let c (o : Nat) := s.rf o 47 0
  match n with
  | 1 => let d := s.frame.damper; d.pool == d.carried + d.granted + d.link + d.grate + d.general && d.charged == d.carried + d.due
  | 2 => let x := s.ctx i; s.aqSlots i == x.credits + x.held.length + x.queue.length
  | 3 => c (cWrOffered i) == (c (cWrDone i) + c (cOobWrite i)) % m
  | 4 =>
    let wait := (s.upd.feed.filter (fun b => b.dom == i)).length + (s.upd.staged.filter (fun r => r.dom == i)).length +
      (s.upd.batch.filter (fun u => u.dom == i)).length
    c (cUpdArrived i) == (c (cUpdIssued i) + c (cUpdFrozen i) + c (cUpdNomap i) + c (cStepDiscard i) + wait) % m &&
    c (cUpdIssued i) == (c (cUpdDone i) + s.ucmds i) % m
  | 5 => let t := s.port (i / 8); t.creditErr != some (i % 8) && t.avail.getD (i % 8) 0 + t.owed.getD (i % 8) 0 == t.credits.getD (i % 8) 0 &&
      t.rxFree.getD (i % 8) 0 + ((t.rx.filter (fun k => k.vc == i % 8)).map Pkt.units).sum == t.adv.getD (i % 8) 0
  | 6 => s.fab.storeFree + s.leafSlots == 262144
  | 7 => s.upd.feedFree + s.upd.feed.length + s.upd.batch.length == 4096
  | 8 => let t := s.stream i; t.free + (s.reg (rStreamBytes i)).toNat + (16 * t.limit - t.came) == s.streamRing i
  | 9 => (List.range 4).all (s.cledOk i)
  | 10 =>
    let act := ((rangeFrom (52 * i) 52).filter (fun j => s.tileState j == 0)).length
    let out := ((rangeFrom (48 * i) 48).filter s.tileOut).length
    act + out + (s.tiles.swaps.filter (fun w => w.1 / 48 == i && s.tileState w.2.1 != 0)).length == 48
  | _ => decide (idxSub (s.cpl i).pi (s.cpl i).ci + s.reserved i ≤ s.cplLen i)

/-- A ledger of domain d mismatches: `mend` and a Contained fault, source 29; not audited again while the domain is FAULTED (R431). -/
def State.auditDomain (s : State) (d n i unit : Nat) (mend : State → State) : State :=
  if s.ledgerOk n i || s.flt.badLedgers.contains (d, 16 * i + n) then s
  else
    let s := mend { s with flt := { s.flt with badLedgers := s.flt.badLedgers ++ [(d, 16 * i + n)] } }
    s.contained d { cls := 2, src := 29, mkind := 3, mid := unit, acc := 7, detail := n } []

/-- Channels of a port whose ledger mismatches (R325, R364). -/
def State.badVcs (s : State) (p : Nat) : List Nat := (List.range 8).filter (fun v => !s.ledgerOk 5 (8 * p + v))

/-- A port's ledger mismatches: it retrains, with an event for each channel (R325, R431). -/
def State.auditPort (s : State) (p : Nat) : State :=
  match s.badVcs p with
  | [] => s
  | vs =>
    let s := s.modPort p (fun t => { t with creditErr := none })
    vs.foldl (fun (s : State) _ => s.minor { cls := 0, src := 4, mkind := 4, mid := p, acc := 7 }) (if s.portUpB p then s.retrain p else s)

/-- Domains of which some register was written or counted: the ledgers of the others hold zeros. -/
def State.domsListed (s : State) : List Nat :=
  (s.regs.filterMap (fun e => if 0x00100000 ≤ e.1 ∧ e.1 < 0x00200000 then some ((e.1 - 0x00100000) / 0x1000) else none)).eraseDups

/-- The command rings that feed a completion ring enter ERROR (Table FC-5, ledger 11). -/
def State.stopFeeders (s : State) (c : Nat) : State :=
  (List.range 64).foldl (fun s r => if s.rb (rRingCfg r) 0 && s.ringCpl r == c then s.ringError r else s) s

/-- The ledgers of domain d (Table FC-5), in order: number, instance, unit, and what a mismatch mends. -/
def State.ledgersOf (s : State) (d : Nat) : List (Nat × Nat × Nat × (State → State)) :=
  ((s.ctxs.map (·.1)).filter (fun c => s.ctxOn c && s.ctxDom c == d)).map (fun c => (2, c, 0, fun s => s.setRb (rRouteCtl c) 0 false)) ++
  [(3, d, 0, id), (4, d, 3, id), (9, d, 2, id)] ++
  ((s.fab.streams.map (·.1)).filter (fun n => s.rb (rStreamCfg n) 16 && s.rf (rStreamCfg n) 7 0 == d)).map (fun n => (8, n, 2, fun s => s.resetStream n)) ++
  ((s.pipe.cpls.map (·.1)).filter (fun c => s.rb (rCplCfg c) 0 && s.rf (rCplCfg c) 15 8 == d)).map (fun c => (11, c, 0, fun s => s.stopFeeders c))

/-- The audit of the ledgers of domain d. -/
def State.auditOf (s : State) (d : Nat) : State :=
  (s.ledgersOf d).foldl (fun s l => s.auditDomain d l.1 l.2.1 l.2.2.1 l.2.2.2) s

/-- Domains whose ledgers are audited, ascending. -/
def State.auditDoms (s : State) : List Nat :=
  let ds := s.domsListed ++ (s.ctxs.map (·.1)).map s.ctxDom ++ s.fab.streams.map (fun n => s.rf (rStreamCfg n.1) 7 0) ++
    s.pipe.cpls.map (fun c => s.rf (rCplCfg c.1) 15 8)
  (List.range 256).filter ds.contains

/-- Module ledgers that mismatch (R431): number and unit, in order. -/
def State.badModule (s : State) : List (Nat × Nat) :=
  ([(1, 0, 1), (6, 0, 2), (7, 0, 2), (10, 0, 0), (10, 1, 0)].filter (fun l => !s.ledgerOk l.1 l.2.1)).map (fun l => (l.1, l.2.2))

/-- Mismatches of domain and port ledgers in the same audit. -/
def State.otherBad (s : State) : Nat :=
  (s.auditDoms.map (fun d => ((s.ledgersOf d).filter (fun l => !(s.ledgerOk l.1 l.2.1 || s.flt.badLedgers.contains (d, 16 * l.2.1 + l.1)))).length)).sum +
  (s.fab.ports.map (fun p => (s.badVcs p.1).length)).sum

/-- The audit of every ledger in the guard interval (R430, R431), in the order of R419: a module ledger is Fatal, source 48, and every
other mismatch is a suppressed event of that fault, the Corrected ones of ports counted (R425); else the ledgers of the domains in ascending order, then those of the ports. -/
def State.audit (s : State) : State :=
  match s.badModule with
  | (n, unit) :: more =>
    (s.bump cFaultCe (s.fab.ports.map (fun p => (s.badVcs p.1).length)).sum).fatal { cls := 3, src := 48, mkind := 3, mid := unit, acc := 7, detail := n } (more.length + s.otherBad)
  | [] => (s.fab.ports.map (·.1)).foldl State.auditPort (s.auditDoms.foldl State.auditOf s)

/-- GUARD_INTERVAL (R34, R430): admission of bounded work closes, the ledgers are audited, the Draught loop runs. -/
def execGuardInterval (s : State) : Host.Outcome State Fault Refusal :=
  if !s.pwr.stoked ∨ s.frame.guard ∨ s.flt.fatal then .next s
  else
    let s := (s.timeTo (s.frame.stokeAt + s.periodNs - 2000)).useFd [.scheduler, .damper]
    if s.flt.fatal then .next s
    else
      let t := ({ s with frame := { s.frame with guard := true } } : State).audit
      .next (if t.flt.fatal then t else t.draughtAll)

/-! ### Power and temperature -/

/-- POWER_MONITOR_SAMPLE (R51): over 10 samples the hold, over 50 the emergency throttle of every compute-die zone. -/
def execPowerMonitorSample (watts : Nat) (s : State) : Host.Outcome State Fault Refusal :=
  if !s.pwr.stoked then .next s
  else
    let d := s.frame.damper
    let l := (watts :: d.samples).take 50
    let hold := decide (10 ≤ l.length ∧ 10 * s.frame.cap < (l.take 10).sum)
    let overCap := decide (50 ≤ l.length ∧ 50 * s.frame.cap < l.sum)
    let t := s.setDamper { d with samples := l, hold, overCap }
    let t := if hold && !d.hold then t.bump cCapHold 1 else t
    .next (if overCap && !d.overCap then t.emergency (List.range 32) else t)

def tempReset (_ : Nat) : Int := 0

/-- The zone of a die site (Table MG-3); sites 70-93 are stacks. -/
def siteZone (i : Nat) : Option Nat := if i < 64 then some (i / 2) else if i < 70 then some (32 + (i - 64)) else none

/-- SENSOR_SAMPLE (R435, R63): the readings in steps of 0.125 degrees; a zone is as hot as its hottest site, and throttles when it
reaches 105 degrees. -/
def execSensorSample (temps : List (Nat × Int)) (s : State) : Host.Outcome State Fault Refusal :=
  if s.pwr.pkg = .off then .next s
  else
    let ts := temps.filter (fun t => decide (t.1 < 94))
    let sites := ts.foldl (fun m t => Tab.set tempReset m t.1 t.2) s.frame.sites
    let zs := (ts.filterMap (fun t => siteZone t.1)).eraseDups
    let tj (z : Nat) : Int :=
      if z < 32 then max (Tab.get tempReset sites (2 * z)) (Tab.get tempReset sites (2 * z + 1)) else Tab.get tempReset sites (32 + z)
    let hot := zs.filter (fun z => decide (s.tj z < 840 ∧ 840 ≤ tj z))
    let t := zs.foldl (fun (s : State) z => s.setRf (rZoneStatus z) 47 32 (unsigned 16 (tj z))) { s with frame := { s.frame with sites } }
    .next (if hot.isEmpty then t else t.emergency hot)

/-! ### Pins and vectors -/

/-- SMOKE_PULSE_END (R428, R436): the pin takes `SMOKE_LEVEL`, which Chimney's firmware, while it runs, holds low while a Fatal fault
stands and high otherwise. -/
def execSmokePulseEnd (s : State) : Host.Outcome State Fault Refusal :=
  match s.flt.pulse with
  | none => .next s
  | some t =>
    let s := s.timeTo t
    let s := if s.chim.running && !s.chim.recovery && decide (s.chim.upAt ≤ s.now) then s.setRb rSmokeLevel 0 (!s.flt.fatal) else s
    .next { s with flt := { s.flt with pulse := none, smoke := s.rb rSmokeLevel 0 } }

/-- Was `EMBER_KICK` written within the last 10 ms (R429)? -/
def State.kicked (s : State) : Bool :=
  match s.flt.lastKick with
  | some k => decide (s.now ≤ k + 10000000)
  | none => false

/-- EMBER_TOGGLE (R429): the next boundary of 500,000 counts; the pin toggles while its conditions hold, and is low otherwise. -/
def execEmberToggle (s0 : State) : Host.Outcome State Fault Refusal :=
  if !s0.frame.locked then .next s0
  else
    let t := s0.flt.emberAt + 500000
    let s := s0.timeTo t
    let go := s.kicked && !s.flt.fatal
    let s := { s with flt := { s.flt with emberAt := t, ember := go && !s.flt.ember } }
    .next (s.setRf rEmberStatus 1 0 (if s.flt.fatal then 2 else if go then 0 else 1))

/-- EMBER_KICK_TIMEOUT (R429): 10 ms without a kick. -/
def execEmberKickTimeout (s0 : State) : Host.Outcome State Fault Refusal :=
  if s0.rf rEmberStatus 1 0 ≠ 0 then .next s0
  else
    let s := match s0.flt.lastKick with
      | some k => s0.timeTo (k + 10000001)
      | none => s0
    .next ({ s with flt := { s.flt with ember := false } }.setRf rEmberStatus 1 0 1)

/-- IRQ_GAP_EXPIRY (R414): the gap of a pending IMMEDIATE vector ends. -/
def execIrqGapExpiry (v : Nat) (s0 : State) : Host.Outcome State Fault Refusal :=
  if s0.pbaBit v ∧ Tab.get boolReset s0.host.immediate v ∧ !s0.masked v then
    let s := s0.timeTo (s0.gapEnd v)
    .next (s.writeStatus.sendMsix v)
  else .next s0

/-- A vector has been unmasked: a pending one fires, an IMMEDIATE one not before its gap has ended (R414). -/
def State.fireUnmasked (s : State) (v : Nat) : State :=
  if s.pbaBit v && (!Tab.get boolReset s.host.immediate v || decide (s.gapEnd v ≤ s.now)) then s.writeStatus.sendMsix v else s

/-- Vectors that were masked before and are not now fire (R414). -/
def State.fireAll (old s : State) : State :=
  (List.range 256).foldl (fun s v => if old.masked v && !s.masked v then s.fireUnmasked v else s) s

/-- MSIX_UNMASK (R414): the host clears the vector's mask bit, while the function takes its writes (R457, R461). -/
def execMsixUnmask (v : Nat) (s : State) : Host.Outcome State Fault Refusal :=
  if 256 ≤ v ∨ !(s.pwr.bar0 && !s.pwr.d3) then .next s
  else
    let t := s.setRb (rMsixTable + 16 * v + 8) 32 false
    .next (if t.masked v then t else t.fireUnmasked v)

end Sys2Proof.Machine
end

