-- ==== Sys2Proof/Machine/RegWrite.lean ====
section
/-!
DEFINITION. Register writes (18_registers, R9-R11, R468-R481): the fields of a word, the locked-register violation (R470), the held
low half (R473), and the registers whose writes act: one operation each, shared by the row of the register and REGISTER_WRITE.
-/
namespace Sys2Proof.Machine

/-! ### Storing fields -/

/-- Is the instance that a register configures disabled (DIS, R469)? -/
def State.instFree (s : State) (off : Nat) : Bool :=
  if 0x00100000 ≤ off ∧ off < 0x00200000 then
    let d := (off - 0x00100000) / 0x1000
    !s.domOn d && !s.rb (rDomCtl d) 1
  else if 0x00240000 ≤ off ∧ off < 0x00280000 then !s.ctxOn ((off - 0x00240000) / 0x1000)
  else if 0x00284000 ≤ off ∧ off < 0x00285000 then !s.rb (rCgroupCtl ((off - 0x00284000) / 0x40)) 24
  else if 0x00288000 ≤ off ∧ off < 0x00290000 then !s.rb (rStreamCfg ((off - 0x00288000) / 0x20)) 16
  else if 0x00290000 ≤ off ∧ off < 0x00291000 then
    let r := (off - 0x00290000) / 0x40
    if off % 0x40 < 0x18 then !s.rb (rRingCfg r) 0 else !s.rb (rCplCfg r) 0
  else true

/-- What a write stores in a word by the access codes and marks of its fields, and whether it would change a locked field. -/
def State.stored (s : State) (w : Requester) (off : Nat) (only v : W64) : W64 × Bool :=
  Sys2Proof.Machine.writeWord off s.locked (s.instFree off) (w == .chimney) only (s.reg off) v

/-- A locked-register write (R11, R470): counted, with the Snuffer alarm. -/
def State.violation (s : State) : State := (s.bump cLockViolation 1).snuffer 1

/-- Store a write by its fields (R9-R11, R469, R470). -/
def State.store (s : State) (w : Requester) (off : Nat) (only v : W64) : State :=
  let r := s.stored w off only v
  let s := s.setReg off r.1
  if r.2 then s.violation else s

/-- Does the write reach bit `i`, and with a 1? -/
def reaches (only : W64) (i : Nat) : Bool := fbit only i
def writes1 (only v : W64) (i : Nat) : Bool := fbit only i && fbit v i

/-- May the requester write registers now: the host once BAR0 is ready (R461) and the function is in D0 (Table HR-1), Chimney while it runs
(R446) and the package has power? -/
def State.canWrite (s : State) (w : Requester) : Bool :=
  match w with
  | .host => s.pwr.bar0 && !s.pwr.d3
  | .chimney => s.pwr.pkg != .off && s.chim.running && decide (s.chim.upAt ≤ s.now)

/-! ### Module block -/

/-- Offsets of the locked registers, ascending (R470). -/
def lockedOffs : List Nat :=
  (((List.range 512).map (0x1000 + 8 * ·)) ++ (List.range 18).map rPortCfg ++ [rRangeCtl] ++ (List.range 8).map rVcCfg).filter hasLocked

/-- The bytes of measurement index 7 (R467). -/
def State.lockedBytes (s : State) : List Byte := wordsBytes (lockedOffs.map s.reg)

/-- A write of SETUP_LOCK (R467). -/
def State.wSetupLock (s0 : State) (only v : W64) : State :=
  let s := if writes1 only v 1 then s0.setRb rSetupLock 1 false else s0
  if !writes1 only v 0 || s.locked then s
  else if s.rangeState = 0 ∨ s.rangeState = 1 ∨ s.frame.gateWaits ∨ (s.rangeState = 3 ∧ s.frame.switch.isSome) then s.setRb rSetupLock 1 true
  else
    let s := s.setRb rSetupLock 0 true
    { s with fab := { s.fab with lockedAs := (s.member, s.rf rRangeCtl 14 10) },
             chim := { s.chim with lockMeas := some (Config.sha384 s.lockedBytes) } }

/-- A write of STOKE_SWITCH_FRAME requests a change of period (R32, Table RG-2). -/
def State.wStokeSwitch (s0 : State) (w : Requester) (only v : W64) : State :=
  let s := s0.store w rStokeSwitchFrame only v
  let f := s.rf rStokeSwitchFrame 47 0
  let p := s.rf rStokePeriodNext 12 0
  if s.rangeState = 1 ∨ s.rangeState = 2 ∨ p < 50 ∨ 5000 < p ∨ f < s.frameNo + 4 then s.setRb rStokePeriod 16 true
  else { s with frame := { s.frame with switch := some (p, f) } }

/-- A write of POWER_CTL (R46, R54): the cap is clamped against the gate mode in force; a written gate mode waits for the stoke. -/
def State.wPowerCtl (s0 : State) (w : Requester) (only v : W64) : State :=
  let s := s0.store w rPowerCtl only v
  let c := s.rf rPowerCtl 11 0
  let top := if s.frame.legacy then 2000 else 2800
  let k := max 1000 (min top c)
  let s := if reaches only 0 && c != k then (s.setRf rPowerCtl 11 0 k).setRb rPowerCtl 32 true else s
  if reaches only 40 && !s.locked then { s with frame := { s.frame with gateWaits := s.rb rPowerCtl 40 != s.frame.legacy } } else s

/-- A write of FAULT_CLEAR (R422): held pending for a FAULTED domain. -/
def State.wFaultClear (s : State) (only v : W64) : State :=
  let d := fld v 7 0
  if reaches only 0 && s.faulted d then
    { s with flt := { s.flt with clears := s.flt.clears.filter (fun (u : Nat × Bool) => u.1 != d) ++ [(d, fbit v 8)] } }
  else s

/-- A write of SMOKE_LEVEL, Chimney's alone (R428): the pin follows unless a pulse lasts. -/
def State.wSmokeLevel (s0 : State) (w : Requester) (only v : W64) : State :=
  let s := s0.store w rSmokeLevel only v
  if s.flt.pulse.isNone then { s with flt := { s.flt with smoke := s.rb rSmokeLevel 0 } } else s

/-- A write of SE_CTL (R380): a new `TEST_PERIOD` spreads the due times anew, once the schedule has started. -/
def State.wSeCtl (s0 : State) (w : Requester) (only v : W64) : State :=
  let s := s0.store w rSeCtl only v
  if s.testPeriod ≠ s0.testPeriod ∧ s.tiles.dueAt.length ≠ 0 then s.staggerTests else s

/-- A kick (R429). -/
def State.kick (s : State) : State := { s with flt := { s.flt with lastKick := some s.now } }

/-! ### Domains and tiles -/

/-- Is a command of the domain queued or running? -/
def State.domBusy (s : State) (d : Nat) : Bool :=
  s.runs.any (fun r => r.cmd.dom == d) || s.pipe.queues.any (fun e => e.2.ents.any (fun h => h.cmd.dom == d))

/-- A write of DOM_CTL (R283, R466, R475). -/
def State.wDomCtl (s0 : State) (w : Requester) (d : Nat) (only v : W64) : State :=
  let c := rDomCtl d
  let on := s0.domOn d || s0.rb c 1
  let s := s0.setReg c (setFld (s0.stored w c only v).1 0 0 (b2n (s0.domOn d)))
  if !reaches only 0 then s
  else if fbit v 0 then
    if on then s
    else if !s.locked then s.setRb c 8 true
    else if s.reg (rUpdMapBase d) = 0#64 then s.setRb c 0 true
    else s.setRb c 1 true
  else if !on then s
  else if s.domBusy d ∨ s.stepState d ≠ 0 then s.setRb c 8 true
  else ((s.setRb c 0 false).setRb c 1 false).setUpd { s.upd with maps := Tab.set mapReset s.upd.maps d none }

/-- A write of PT_ROOT (R215). -/
def State.wPtRoot (s : State) (w : Requester) (d : Nat) (only v : W64) : State :=
  let x := (s.stored w (rPtRoot d) only v).1
  if stackEnd ≤ (v &&& only).toNat % 2 ^ 41 / 2 ^ 16 * 2 ^ 16 then s.setRb (rDomCtl d) 8 true else s.setReg (rPtRoot d) x

/-- The partner of a logical tile in its pair (R372). -/
def pairOf (t : Nat) : Nat := if t % 2 = 0 then t + 1 else t - 1

/-- An OUT tile returns on the lowest SPARE tile of its die (R379). -/
def State.reviveTile (s : State) (t : Nat) : State :=
  match s.spares (t / 48) with
  | k :: _ =>
    if s.tileOut t then
      (((s.setRb (rTileMap t) 8 false).setRf (rTileMap t) 5 0 (k % 52)).setTileState k 0 (t % 48)).checkSpares (t / 48)
    else s
  | [] => s

/-- A write of TILE_DOMAIN (R214, R372, R379): a new owner finds a store of zeros. -/
def State.wTileDomain (s0 : State) (w : Requester) (t : Nat) (only v : W64) : State :=
  let o := rTileDomain t
  let d := fld v 7 0
  let p := s0.tileOwner (pairOf t)
  let s := s0.setReg o (setFld (s0.stored w o only v).1 7 0 (s0.tileOwner t))
  if !reaches only 0 then s
  else if s.runs.any (fun r => s.occupies r t) || !(s.queue t).ents.isEmpty ||
      (d != p && (s.rb (rTwinCtl d) 0 || s.rb (rTwinCtl p) 0)) then s.setRb o 8 true
  else
    let fresh := decide (d ≠ s.tileOwner t) || s.tileOut t
    let s := (s.setRf o 7 0 d).reviveTile t
    if fresh then
      { s with mem := s.mem.zeroTile t,
               tiles := { s.tiles with zeroing := if s.tiles.zeroing.contains t then s.tiles.zeroing else s.tiles.zeroing ++ [t] } }
    else s

/-! ### Routing contexts -/

/-- The conditions of R478 on a word of ROUTE_CTL that enables. -/
def State.ctxEnableOk (s : State) (c : Nat) (x : W64) : Bool :=
  let e := fld x 24 16
  let b := BitVec.ofNat 32 (s.rf (rDraughtBmax c) 31 0)
  let neg := match W32.ex b with
    | .fin m _ => decide (m < 0)
    | _ => true
  decide (1 ≤ e ∧ e ≤ 256) && decide (s.aqBase c + s.aqSlots c * s.aqBytes c ≤ tileBytes) &&
  decide (s.rf (rAqCfg c) 6 1 < 48) && s.tileOwner (s.aqTile c) == fld x 15 8 && !neg

/-- Enabling a context (R159, R171): empty load window, staged biases, epoch, free credits. -/
def State.ctxStart (s : State) (c : Nat) : State :=
  let s := if (s.ctx c).everOn then s else s.setReg (rRouteEpoch c) 0#64
  let n := s.aqSlots c
  (((s.modCtx c (fun x => { x with load := [], everOn := true, queue := [], inflight := [], held := [], credits := n }))).stageBiases c).settleEpoch c

/-- A write of ROUTE_CTL (R159, R478). -/
def State.wRouteCtl (s0 : State) (w : Requester) (c : Nat) (only v : W64) : State :=
  let o := rRouteCtl c
  let x := (s0.stored w o only v).1
  if reaches only 0 && fbit v 0 && !s0.ctxOn c then
    if s0.ctxEnableOk c x then (s0.setReg o x).ctxStart c
    else s0.setRb o 31 true
  else s0.setReg o x

/-! ### Chaug -/

/-- A write of CGROUP_CTL (R334, R479). -/
def State.wCgroupCtl (s0 : State) (w : Requester) (k : Nat) (only v : W64) (e : Env) : State :=
  let o := rCgroupCtl k
  let on := s0.rb o 24
  let x := (s0.stored w o only v).1
  if reaches only 24 && fbit v 24 && !on then
    let s := (s0.setReg o x).setRb o 24 false
    let n := s.rf o 18 8
    let r := (s.upsets e).mapRead e (s.groupDom k) ((s.reg (rCgroupList k)).toNat) (4 * n) 7
    match r.2 with
    | .fail _ malformed => (if malformed then r.1.snuffer 2 else r.1).setRb o 25 true
    | .ok bs =>
      let ms := (List.range n).map (fun i => leNat ((bs.drop (4 * i)).take 4))
      if 1 ≤ n ∧ n ≤ 1024 ∧ (ms.filter (· == s.member)).length = 1 then
        let s := { r.1 with fab := { r.1.fab with groups := Tab.set membersReset r.1.fab.groups k ms } }
        (s.setRb o 24 true).setReg (rCgroupSeq k) 0#64
      else r.1.setRb o 25 true
  else if reaches only 24 && !fbit v 24 && on &&
      (s0.runs.any (fun r => r.cmd.isCollective && r.cmd.group == k) ||
        s0.pipe.queues.any (fun q => q.2.ents.any (fun h => h.cmd.isCollective && h.cmd.group == k))) then
    s0.setRb o 25 true
  else s0.setReg o x

/-- A write of STREAM_CFG (R359, R479). -/
def State.wStreamCfg (s0 : State) (w : Requester) (n : Nat) (only v : W64) : State :=
  let o := rStreamCfg n
  let x := (s0.stored w o only v).1
  if reaches only 16 && fbit v 16 && !s0.rb o 16 then
    if fld x 14 9 < 48 ∧ s0.tileOwner (48 * fld x 8 8 + fld x 14 9) = fld x 7 0 ∧ (fld x 34 24 + fld x 43 36 + 1) * 4096 ≤ tileBytes then
      let s := (s0.setReg o x).setReg (rStreamBytes n) 0#64
      s.modStream n (fun t => { burst := t.burst, free := s.streamRing n })
    else s0.setRb o 63 true
  else s0.setReg o x

/-- A write of PORT_CFG (R461): the port retrains; while package reset is held every transmitter stays idle (R457). -/
def State.wPortCfg (s0 : State) (w : Requester) (p : Nat) (only v : W64) : State :=
  let s := s0.store w (rPortCfg p) only v
  if s0.locked || s0.pwr.pkg != .released then s else s.retrain p

/-- A write of VC_CFG (R479). -/
def State.wVcCfg (s : State) (w : Requester) (c : Nat) (only v : W64) : State :=
  let x := (s.stored w (rVcCfg c) only v).1
  let sum := ((List.range 8).map (fun i => if i = c then fld x 13 0 else s.rf (rVcCfg i) 13 0)).sum
  if !s.locked && decide (12288 < sum) then s.setRb rCfCtl 16 true else s.store w (rVcCfg c) only v

/-- Joining begins (R464): the module waits for a marker, and measures its delay. -/
def State.startJoin (s : State) : State :=
  let s := s.setRf rRangeStatus 1 0 1
  { s with fab := { s.fab with joining := none, sinceEcho := 4096, markers := [] } }

/-- A write of RANGE_CTL (R463-R465): after lock only a rejoin of a detached member. While the strap was high `MASTER_EN` is 1
whatever is written. -/
def State.wRangeCtl (s0 : State) (w : Requester) (only v : W64) : State :=
  let v := if s0.pwr.masterSel then v ||| maskW 16 16 else v
  let x := (s0.stored w rRangeCtl only v).1
  let m := (v &&& only) ||| (s0.reg rRangeCtl &&& ~~~only)
  if s0.locked then
    if s0.rangeState = 0 ∧ (fld m 9 0, fld m 14 10) = s0.fab.lockedAs ∧ fbit m 15 ∧ !fbit m 16 then s0.startJoin
    else s0.store w rRangeCtl only v
  else
    let x := if s0.pwr.masterSel then x ||| maskW 16 16 else x
    let s := s0.setReg rRangeCtl x
    if fbit x 16 then s.setReg rRangeStatus (BitVec.ofNat 64 3)
    else if !fbit x 15 then s.setRf rRangeStatus 1 0 0
    else s.startJoin

/-! ### Rings and tallies -/

/-- A write of RING_CFG (R394, R480). -/
def State.wRingCfg (s0 : State) (w : Requester) (r : Nat) (only v : W64) : State :=
  let o := rRingCfg r
  let x := (s0.stored w o only v).1
  let on := s0.rb o 0
  if reaches only 0 && fbit v 0 && !on then
    let c := fld x 29 24
    if s0.rb (rCplCfg c) 0 && s0.rf (rCplCfg c) 15 8 == fld x 15 8 then
      ((s0.setReg o x).setReg (rRingState r) 1#64).setRing r {}
    else s0.setRb o 63 true
  else if reaches only 0 && !fbit v 0 && on then ((s0.setReg o x).setReg (rRingState r) 0#64).setRing r { s0.ring r with buf := [], asked := 0 }
  else s0.setReg o x

/-- A write of CPL_CFG (R394). -/
def State.wCplCfg (s0 : State) (w : Requester) (c : Nat) (only v : W64) : State :=
  let o := rCplCfg c
  let x := (s0.stored w o only v).1
  let on := s0.rb o 0
  if reaches only 0 && fbit v 0 && !on then ((s0.setReg o x).setReg (rCplState c) 1#64).setCpl c {}
  else if reaches only 0 && !fbit v 0 && on then (s0.setReg o x).setReg (rCplState c) 0#64
  else s0.setReg o x

/-- Does a queued or running command name a tally of block b (R408)? -/
def State.tallyNamed (s : State) (b : Nat) : Bool :=
  let names (c : Cmd) : Bool := c.tallies.any (fun t => t / 512 == b)
  s.runs.any (fun r => names r.cmd) || s.pipe.queues.any (fun e => e.2.ents.any (fun h => names h.cmd))

/-- A write of TALLY_OWNER (R408): the block's counters are 0. -/
def State.wTallyOwner (s : State) (w : Requester) (b : Nat) (only v : W64) : State :=
  let o := rTallyOwner b
  if s.tallyNamed b then s.setRb o 63 true
  else
    let s := s.setReg o (s.stored w o only v).1
    { s with pipe := { s.pipe with tally := Tab.dropRange s.pipe.tally (512 * b) 512 } }

/-! ### Mailbox and MSI-X table -/

/-- The bytes of the request that the mailbox registers hold. -/
def State.mbxRequest (s : State) : List Byte :=
  (wordsBytes ((List.range 32).map (fun i => s.reg (rMbxReq + 8 * i)))).take (s.rf rMbxCtl 8 0)

/-- A write of MBX_CTL (R440, R481): GO submits the request as it stands; while one waits another is ignored, its length too, and
`MBX_ERR` set. -/
def State.wMbxCtl (s : State) (w : Requester) (only v : W64) : State :=
  if !writes1 only v 16 then s.store w rMbxCtl only v
  else if s.rb rMbxCtl 17 then (s.store w rMbxCtl (only &&& ~~~(maskW 8 0)) v).setRb rMbxCtl 19 true
  else
    let s := s.store w rMbxCtl only v
    { s.setRb rMbxCtl 17 true with chim := { s.chim with mbx := some s.mbxRequest } }

/-- A write of the second word of an MSI-X table entry (R414): clearing the mask lets a pending vector fire. -/
def State.wMsixCtl (s0 : State) (w : Requester) (i : Nat) (only v : W64) : State :=
  let s := s0.store w (rMsixTable + 16 * i + 8) only v
  if s0.masked i && !s.masked i then s.fireUnmasked i else s

/-! ### Dispatch of a write -/

/-- A write of the registers with a wider table: (base, stride, count, offset within the instance). -/
def inst (off base stride n at' : Nat) : Option Nat :=
  if base ≤ off ∧ (off - base) / stride < n ∧ (off - base) % stride = at' then some ((off - base) / stride) else none

/-- A write of the word at an offset, of the bits that `only` selects. -/
def State.writeReg (s : State) (w : Requester) (off : Nat) (only v : W64) (e : Env) : State :=
  if off = rSetupLock then s.wSetupLock only v
  else if off = rStokeSwitchFrame then s.wStokeSwitch w only v
  else if off = rPowerCtl then s.wPowerCtl w only v
  else if off = rStepAbandon then (if reaches only 0 then s.hostAbandon (fld v 7 0) else s)
  else if off = rFaultClear then s.wFaultClear only v
  else if off = rSmokeLevel then s.wSmokeLevel w only v
  else if off = rEmberKick then (if w = .chimney ∧ writes1 only v 0 then s.kick else s)
  else if off = rRangeCtl then s.wRangeCtl w only v
  else if off = rMbxCtl then s.wMbxCtl w only v
  else if off = rSeCtl then s.wSeCtl w only v
  else
    (((inst off 0x1400 8 38 0).map (fun _ => (s.store w off only v).publishZones)) <|>
     ((inst off 0x00100000 0x1000 256 0).map (fun d => s.wDomCtl w d only v)) <|>
     ((inst off 0x00100000 0x1000 256 8).map (fun d => s.wPtRoot w d only v)) <|>
     ((inst off 0x00200000 0x40 96 0).map (fun t => s.wTileDomain w t only v)) <|>
     ((inst off 0x00220000 0x1000 24 8).map (fun k =>
        if w = .chimney ∧ reaches only 0 ∧ fld v 4 0 < 18 then s.markDie k (fld v 4 0) 0 else s)) <|>
     ((inst off 0x00240000 0x1000 64 0).map (fun c => s.wRouteCtl w c only v)) <|>
     ((inst off 0x00240000 0x1000 64 0x20).map (fun c => if writes1 only v 0 then s.advanceEpoch c else s)) <|>
     ((inst off 0x00280000 0x100 18 0).map (fun p => s.wPortCfg w p only v)) <|>
     ((inst off 0x00281F40 8 8 0).map (fun c => s.wVcCfg w c only v)) <|>
     ((inst off 0x00282000 8 1024 0).map (fun _ => (s.store w off only v).sendWaiting)) <|>
     ((inst off 0x00284000 0x40 64 0).map (fun k => s.wCgroupCtl w k only v e)) <|>
     ((inst off 0x00288000 0x20 1024 0).map (fun n => s.wStreamCfg w n only v)) <|>
     ((inst off 0x00290000 0x40 64 0).map (fun r => s.wRingCfg w r only v)) <|>
     ((inst off 0x00290000 0x40 64 0x18).map (fun c => s.wCplCfg w c only v)) <|>
     ((inst off 0x00291000 8 256 0).map (fun b => s.wTallyOwner w b only v)) <|>
     ((inst off 0x03F00000 16 256 8).map (fun i => s.wMsixCtl w i only v))).getD (s.store w off only v)

/-- All bits of a word, and its halves. -/
def allBits : W64 := BitVec.ofNat 64 (2 ^ 64 - 1)
def lowHalf : W64 := BitVec.ofNat 64 (2 ^ 32 - 1)
def highHalf : W64 := BitVec.ofNat 64 (2 ^ 64 - 2 ^ 32)

/-- The low half that a requester holds (R473). -/
def State.held (s : State) (w : Requester) : Option (Nat × Nat) :=
  (s.host.half.find? (fun h => h.1 == (w == .chimney))).map (·.2)

/-- Replace what a requester holds. -/
def State.setHeld (s : State) (w : Requester) (h : Option (Nat × Nat)) : State :=
  let me := w == .chimney
  { s with host := { s.host with half := s.host.half.filter (fun (u : Bool × Nat × Nat) => u.1 != me) ++
      (match h with | some x => [(me, x)] | none => []) } }

/-- A requester writes the register at an offset: it loses a low half that it holds of any other (R473). -/
def State.loseHeld (s : State) (w : Requester) (off : Nat) : State := s.setHeld w ((s.held w).filter (fun h => h.1 == off))

/-- What a write of the register at an offset meets: control words in SRAM are decoded as it comes (R246, Table DI-5). -/
def State.atWrite (s : State) (w : Requester) (off : Nat) : State := (s.loseHeld w off).seeSram .module

/-- A write of the whole word at an offset by its row. -/
def State.word (s : State) (w : Requester) (off : Nat) (f : State → State) : Host.Outcome State Fault Refusal :=
  if s.canWrite w then .next (f (s.atWrite w off)) else .next s

/-- Does a word of BAR0 hold two 4-byte registers: entries of `DRAUGHT_BIAS` (Table RG-6), and the fields of an MSI-X table entry, dwords of
the standard? Every other word counts as one 8-byte register, those of `MBX_REQ` among them (log entry 15). -/
def twoRegs (off : Nat) : Bool :=
  decide (0x00240000 ≤ off ∧ off < 0x00280000 ∧ 0x400 ≤ off % 0x1000 ∧ off % 0x1000 < 0x800) ||
  decide (rMsixTable ≤ off ∧ off < rMsixTable + 0x1000)

/-- REGISTER_WRITE (R470, R473): 8 bytes, or 4: the low half of an 8-byte register is held until its high half comes; a 4-byte
register is written at once. -/
def execRegisterWrite (w : Requester) (off size : Nat) (v : W64) (s : State) : Host.Outcome State Fault Refusal :=
  if !s.canWrite w ∨ off % size ≠ 0 then .next s
  else if size = 8 then .next ((s.atWrite w off).writeReg w off allBits v {})
  else if size ≠ 4 then .next s
  else if off % 8 = 0 then
    if twoRegs off then .next (((s.setHeld w none).seeSram .module).writeReg w off lowHalf (BitVec.ofNat 64 (fld v 31 0)) {})
    else .next (s.setHeld w (some (off, fld v 31 0)))
  else
    let o := off - 4
    let hi := fld v 31 0 * 2 ^ 32
    let t := (s.setHeld w none).seeSram .module
    match s.held w with
    | some (a, lo) =>
      if a = o then .next (t.writeReg w o allBits (BitVec.ofNat 64 (hi + lo)) {}) else .next (t.writeReg w o highHalf (BitVec.ofNat 64 hi) {})
    | none => .next (t.writeReg w o highHalf (BitVec.ofNat 64 hi) {})

/-! ### The rows -/

def execSetupLock (w : Requester) (v : W64) (s : State) : Host.Outcome State Fault Refusal :=
  s.word w rSetupLock (fun s => s.wSetupLock allBits v)
def execStokeSwitchFrame (w : Requester) (v : W64) (s : State) : Host.Outcome State Fault Refusal :=
  s.word w rStokeSwitchFrame (fun s => s.wStokeSwitch w allBits v)
/-- POWER_CAP: a write of the word that holds it (R46). -/
def execPowerCap (w : Requester) (v : W64) (s : State) : Host.Outcome State Fault Refusal :=
  s.word w rPowerCtl (fun s => s.wPowerCtl w allBits v)
/-- GATE_MODE: a write of the word that holds it (R54). -/
def execGateMode (w : Requester) (v : W64) (s : State) : Host.Outcome State Fault Refusal :=
  s.word w rPowerCtl (fun s => s.wPowerCtl w allBits v)
/-- STEP_ABANDON (R278). -/
def execStepAbandon (w : Requester) (v : W64) (s : State) : Host.Outcome State Fault Refusal :=
  s.word w rStepAbandon (fun s => s.hostAbandon (fld v 7 0))
def execFaultClear (w : Requester) (v : W64) (s : State) : Host.Outcome State Fault Refusal :=
  s.word w rFaultClear (fun s => s.wFaultClear allBits v)
/-- EPOCH_ADVANCE (R180). -/
def execEpochAdvance (w : Requester) (c : Nat) (v : W64) (s : State) : Host.Outcome State Fault Refusal :=
  s.word w (rRouteCtl c + 0x20) (fun s => if fbit v 0 && decide (c < 64) then s.advanceEpoch c else s)
/-- DIE_FAIL_FORCE (R242): Chimney's write; a value above 17 has no effect. -/
def execDieFailForce (k : Nat) (v : W64) (s : State) : Host.Outcome State Fault Refusal :=
  s.word .chimney (rDieFailForce k) (fun s => if fld v 4 0 < 18 ∧ k < 24 then s.markDie k (fld v 4 0) 0 else s)
/-- EMBER_KICK (R429). -/
def execEmberKick (s : State) : Host.Outcome State Fault Refusal := s.word .chimney rEmberKick State.kick
def execTileDomain (w : Requester) (die tile : Nat) (v : W64) (s : State) : Host.Outcome State Fault Refusal :=
  s.word w (rTileDomain (48 * die + tile)) (fun s => if die < 2 ∧ tile < 48 then s.wTileDomain w (48 * die + tile) allBits v else s)
/-- DOMAIN_ENABLE: a write of DOM_CTL (R283, R466). -/
def execDomainEnable (w : Requester) (d : Nat) (v : W64) (s : State) : Host.Outcome State Fault Refusal :=
  s.word w (rDomCtl d) (fun s => if d < 256 then s.wDomCtl w d allBits v else s)
/-- DOMAIN_DISABLE: a write of DOM_CTL (R475). -/
def execDomainDisable (w : Requester) (d : Nat) (v : W64) (s : State) : Host.Outcome State Fault Refusal :=
  s.word w (rDomCtl d) (fun s => if d < 256 then s.wDomCtl w d allBits v else s)
def execPtRoot (w : Requester) (d : Nat) (v : W64) (s : State) : Host.Outcome State Fault Refusal :=
  s.word w (rPtRoot d) (fun s => if d < 256 then s.wPtRoot w d allBits v else s)
def execRouteCtlEnable (w : Requester) (c : Nat) (v : W64) (s : State) : Host.Outcome State Fault Refusal :=
  s.word w (rRouteCtl c) (fun s => if c < 64 then s.wRouteCtl w c allBits v else s)
/-- CGROUP_ENABLE: a write of CGROUP_CTL (R334). -/
def execCgroupEnable (w : Requester) (k : Nat) (v : W64) (e : Env) (s : State) : Host.Outcome State Fault Refusal :=
  s.word w (rCgroupCtl k) (fun s => if k < 64 then s.wCgroupCtl w k allBits v e else s)
/-- CGROUP_DISABLE: a write of CGROUP_CTL (R479). -/
def execCgroupDisable (w : Requester) (k : Nat) (v : W64) (s : State) : Host.Outcome State Fault Refusal :=
  s.word w (rCgroupCtl k) (fun s => if k < 64 then s.wCgroupCtl w k allBits v {} else s)
def execStreamEnable (w : Requester) (n : Nat) (v : W64) (s : State) : Host.Outcome State Fault Refusal :=
  s.word w (rStreamCfg n) (fun s => if n < 1024 then s.wStreamCfg w n allBits v else s)
/-- RING_ENABLE: a write of RING_CFG (R394, R480). -/
def execRingEnable (w : Requester) (r : Nat) (v : W64) (s : State) : Host.Outcome State Fault Refusal :=
  s.word w (rRingCfg r) (fun s => if r < 64 then s.wRingCfg w r allBits v else s)
/-- RING_DISABLE: a write of RING_CFG (R394). -/
def execRingDisable (w : Requester) (r : Nat) (v : W64) (s : State) : Host.Outcome State Fault Refusal :=
  s.word w (rRingCfg r) (fun s => if r < 64 then s.wRingCfg w r allBits v else s)
def execCplRingEnable (w : Requester) (c : Nat) (v : W64) (s : State) : Host.Outcome State Fault Refusal :=
  s.word w (rCplCfg c) (fun s => if c < 64 then s.wCplCfg w c allBits v else s)
def execTallyOwner (w : Requester) (b : Nat) (v : W64) (s : State) : Host.Outcome State Fault Refusal :=
  s.word w (rTallyOwner b) (fun s => if b < 256 then s.wTallyOwner w b allBits v else s)
def execPortCfg (w : Requester) (p : Nat) (v : W64) (s : State) : Host.Outcome State Fault Refusal :=
  s.word w (rPortCfg p) (fun s => if p < 18 then s.wPortCfg w p allBits v else s)
/-- RANGE_JOIN: a write of RANGE_CTL (R464, R465). -/
def execRangeJoin (w : Requester) (v : W64) (s : State) : Host.Outcome State Fault Refusal :=
  s.word w rRangeCtl (fun s => s.wRangeCtl w allBits v)
/-- MASTER_ENABLE: a write of RANGE_CTL (R463). -/
def execMasterEnable (w : Requester) (v : W64) (s : State) : Host.Outcome State Fault Refusal :=
  s.word w rRangeCtl (fun s => s.wRangeCtl w allBits v)
def execVcCfg (w : Requester) (c : Nat) (v : W64) (s : State) : Host.Outcome State Fault Refusal :=
  s.word w (rVcCfg c) (fun s => if c < 8 then s.wVcCfg w c allBits v else s)
/-- MAILBOX_REQUEST: a write of MBX_CTL (R481); Chimney answers later. -/
def execMailboxRequest (w : Requester) (v : W64) (s : State) : Host.Outcome State Fault Refusal :=
  s.word w rMbxCtl (fun s => s.wMbxCtl w allBits v)

end Sys2Proof.Machine
end

