-- ==== Sys2Proof/Machine/Chimney.lean ====
section
/-!
DEFINITION. Chimney (16_chimney_management): firmware images and banks (R443-R447), management messages (R437-R440), the mailbox's
answer (R481), attestation and job reports (R448, R449), authentication failures (R450). Bodies that a named standard defines are
uninterpreted (log entries 30, 33).
-/
namespace Sys2Proof.Machine

def imageReset (_ : Nat) : Option (List Byte) := none

/-! ### Firmware images -/

/-- The image of a component of a bank; where none was transferred it is the factory's (log entry 32). -/
def Chim.image (c : Chim) (bank comp : Nat) : List Byte :=
  (Tab.get imageReset c.images (8 * bank + comp)).getD (Config.factoryImage comp)

/-- The image of a component that runs (R446, R448): as it was at the last start of Chimney or of the package. -/
def Chim.runImage (c : Chim) (comp : Nat) : List Byte :=
  (Tab.get imageReset c.ran comp).getD (c.image (if comp = 1 then c.runs else c.pkgBank) comp)

/-- The images of some components of a bank start. -/
def Chim.start (c : Chim) (bank : Nat) (comps : List Nat) : Chim :=
  { c with ran := comps.foldl (fun t k => Tab.set imageReset t k (some (c.image bank k))) c.ran }

/-- A field of an image header (Table MG-9). -/
def hdr (img : List Byte) (hi lo : Nat) : Nat := bits (leNat (img.take 256)) hi lo

def slice (img : List Byte) (at' n : Nat) : List Byte := (img.drop at').take n

/-- The first check of R444 that does not hold, 0 where all hold. -/
def Chim.imageFails (c : Chim) (comp : Nat) (img : List Byte) : Nat :=
  let n := hdr img 159 128
  let rsvd := hdr img 63 49 == 0 && hdr img 255 162 == 0 && hdr img 1151 1032 == 0 && hdr img 2047 1920 == 0
  firstCause [
    orCause (decide (256 ≤ img.length) && hdr img 31 0 == 0x5A494D47 && hdr img 47 32 == comp && rsvd && decide (n ≤ 2 ^ 23)) 1,
    orCause (!Config.keyRevoked (hdr img 161 160) && Config.sha384 (slice img 80 49) == Config.fusedKeyHash (hdr img 161 160)) 2,
    orCause (decide (Tab.get natReset c.svn comp ≤ hdr img 127 96)) 3,
    orCause (Config.sha384 (slice img 256 n) == slice img 32 48) 4,
    orCause (Config.ecdsaVerify (Config.sha384 (img.take 144)) (slice img 80 49) (slice img 144 48) (slice img 192 48)) 5]

/-- Does a component of a bank verify (R444)? A factory's image fails no check but that of the fused minimum (log entry 32). -/
def Chim.compOk (c : Chim) (bank comp : Nat) : Bool :=
  match Tab.get imageReset c.images (8 * bank + comp) with
  | none => Tab.get natReset c.svn comp == 0 || decide (Tab.get natReset c.svn comp ≤ hdr (Config.factoryImage comp) 127 96)
  | some img => c.imageFails comp img == 0

/-- Raise the fused minimum of components that started well from images with `RAISE_SVN` 1 (R446). -/
def Chim.raiseSvn (c : Chim) (comps : List Nat) : Chim :=
  { c with svn := comps.foldl (fun t k =>
      let img := c.runImage k
      if bit (hdr img 48 48) 0 then Tab.set natReset t k (max (Tab.get natReset t k) (hdr img 127 96)) else t) c.svn }

def State.setChim (s : State) (c : Chim) : State := { s with chim := c }

/-- A firmware event in the log (Table MG-7, kind 8): component, version, bank, result. -/
def State.logFw (s : State) (comp version bank result : Nat) : State :=
  s.logRec 8 (leBytes 2 comp ++ leBytes 4 version ++ leBytes 1 bank ++ leBytes 1 result)

/-- A start in the log (kind 11): bank started, reset cause. -/
def State.logStart (s : State) (bank : Nat) : State := s.logRec 11 (leBytes 1 bank ++ leBytes 1 (s.rf rResetCause 2 0))

/-- The certificate that Chimney issues at each start for the identity key, signed by the device key (R448). -/
def idCert (key : List Byte) : List Byte := Config.certBody key ++ Config.ecdsaSign Config.deviceKey (Config.certBody key)

/-- The SHA-384 measurement of the running Chimney image (R448). -/
def Chim.measure (c : Chim) : List Byte := Config.sha384 (c.runImage 1)

/-- The state that a reset of level 1 leaves (R457, Table SU-2): what Chimney holds stays, with the errors in its SRAM and the reset cause; the package stands
at `pkg`. What went out to the host stays as a history. -/
def State.level1 (s : State) (cause : Nat) (pkg : Pkg) : State :=
  { pending := s.pending, free := s.free, now := s.now, host := { posts := s.host.posts },
    regs := Tab.set regReset [] rResetCause (BitVec.ofNat 64 cause),
    chim := { s.chim with mbx := none, lockMeas := none }, integ := { errs := s.integ.errs.filter (fun r => r.1.1 == .chimney) },
    pwr := { aux := s.pwr.aux, pkg, waitReset := s.pwr.waitReset, waitInput := s.pwr.waitInput } }

/-- Chimney starts (R447): the ROM verifies the active bank's image, else starts the other bank, else stays in recovery mode and holds
the package in reset; each failure is logged. A running update ends and its bank is invalid (R445). New firmware on probation
starts its 5 s anew (R446). `idKey` is derived anew unless it was erased (Table MG-11), and the third certificate is issued (R448). -/
def State.chimStart (s0 : State) : State :=
  let c := s0.chim
  let inv := match c.update with | some _ => [1 - c.active] | none => []
  let good (b : Nat) : Bool := c.compOk b 1
  let up := good c.active || good (1 - c.active)
  let run := if good c.active then c.active else 1 - c.active
  let s := s0.setChim { c with boot := c.boot + 1, startedAt := s0.now, upAt := s0.now }
  let s := ([c.active, 1 - c.active].filter (fun b => !good b && (b == c.active || !up))).foldl (fun s b => s.logFw 1 (hdr (c.image b 1) 95 64) b 1) s
  let s := if up || s.pwr.pkg == .off then s else s.level1 (s.rf rResetCause 2 0) .held
  let c := { s.chim with running := true, recovery := !up, runs := if up then run else c.runs, active := if up then run else c.active,
                         update := none, invalid := c.invalid ++ inv.filter (fun b => !c.invalid.contains b), conn := [], busy := [] }
  let c := if up then c.start run [1] else c
  let c := { c with probation := match c.probation with | some (_, old) => if up && run != old then some (s0.now, old) else none | none => none }
  let c := { c with idKey := if c.idKey.isSome then some (Config.deriveIdentity c.measure) else none, issued := if c.idKey.isSome then idCert (Config.deriveIdentity c.measure) else c.issued }
  (s.setChim c).logStart c.active

/-- Chimney restarts (R446): it answers nothing and kicks nothing until a free time, at most 1 s later (log entry 36). -/
def State.chimRestart (s0 : State) : State :=
  let s := s0.chimStart
  let v := s.freeWord
  v.2.setChim { v.2.chim with upAt := s0.now + v.1.toNat % 1000000001 }

/-- Does Chimney run, no restart lasting (R446)? -/
def State.awake (s : State) : Bool := s.pwr.aux && s.chim.running && decide (s.chim.upAt ≤ s.now)

/-- May Chimney answer: it runs from its firmware? -/
def State.answers (s : State) : Bool := s.awake && !s.chim.recovery

/-! ### Requests (R437-R439) -/

/-- Is a request of an endpoint in progress (R439)? -/
def State.busy (s : State) (ep : Peer) : Bool := decide (s.now < Tab.get natReset s.chim.busy ep.no)

/-- The request of an endpoint is in progress until its answer: a free time, at most `lim` where R439 gives a limit (log entry 33). -/
def State.begin' (s : State) (ep : Peer) (lim : Option Nat) : State :=
  let v := s.freeWord
  let d := match lim with | some n => v.1.toNat % (n + 1) | none => v.1.toNat
  v.2.setChim { v.2.chim with busy := Tab.set natReset v.2.chim.busy ep.no (s.now + d) }

/-- A request comes to Chimney (R438, R439, R446, R447): nothing happens where it does not answer, in recovery mode but for what that
answers; while another of the same endpoint is in progress it gets status 0x04; else `f` serves it. -/
def State.serve (s : State) (rom : Bool) (ep : Peer) (ty code : Nat) (lim : Option Nat) (f : State → State) : Host.Outcome State Fault Refusal :=
  if !(if rom then s.awake else s.answers) then .next s
  else if s.busy ep then .next (s.tell ep ty code 4 [])
  else .next (f (s.begin' ep lim))

/-- The limits of R439 in nanoseconds: an answer, and one that is signed; the manual gives none for other standard messages. -/
def within1ms : Option Nat := some 1000000
def within50ms : Option Nat := some 50000000

/-- Numbers as the items of a message. -/
def numItems (ns : List Nat) : List Int := ns.map (fun (n : Nat) => (n : Int))

/-- Bytes as the items of a message. -/
def asItems (bs : List Byte) : List Int := bs.map (fun b => (b.toNat : Int))

/-- A digest of the state from which a standard body is formed: starts, running image, the endpoint ID on a binding. -/
def Chim.digest (c : Chim) (b : Binding) : List Byte := leBytes 4 c.boot ++ c.measure ++ leBytes 1 (Tab.get natReset c.eids b.no)

/-- Answer a message whose body a standard defines. -/
def State.tellStd (s : State) (ep : Peer) (ty code : Nat) (req : List Byte) : State :=
  s.tell ep ty code 0 (asItems (Config.standardBody code req (s.chim.digest ep.bind)))

/-! ### MCTP and PLDM -/

/-- The message types that Chimney supports (R437). -/
def mctpTypes : List Nat := [0x00, 0x01, 0x05, 0x06, 0x7E]

/-- The PLDM types that Chimney supports (R437): base and firmware update. -/
def pldmTypes : List Nat := [0, 5]

/-- MCTP_CONTROL (R437): Set Endpoint ID of the bus owner of a binding, and of no other endpoint, gives Chimney its endpoint ID there; Get
Endpoint ID answers it, Get Message Type Support names the types; the codes are the standard's (log entry 30). -/
def execMctpControl (ep : Peer) (body : List Byte) (s : State) : Host.Outcome State Fault Refusal :=
  let n := fun i => (body.getD i 0).toNat
  s.serve true ep 0x00 (n 1) within1ms (fun s =>
    let s := if n 1 = 1 ∧ n 2 % 4 < 2 ∧ ep.eid = 0 then s.setChim { s.chim with eids := Tab.set natReset s.chim.eids ep.bind.no (n 3) } else s
    if n 1 = 2 then s.tell ep 0x00 2 0 (((Tab.get natReset s.chim.eids ep.bind.no : Nat) : Int) :: asItems (Config.standardBody 2 body (s.chim.digest ep.bind)))
    else if n 1 = 5 then s.tell ep 0x00 5 0 (numItems mctpTypes)
    else if n 1 = 1 ∧ ep.eid ≠ 0 then s.tell ep 0x00 1 1 []
    else s.tellStd ep 0x00 (n 1) body)

/-- PLDM_BASE (R437): GetPLDMTypes names types 0 and 5, a request about any other type gets the standard's error, the rest of the bodies are
the standard's; so are the places of the command and of the type in the request (log entry 30). -/
def execPldmBase (ep : Peer) (body : List Byte) (s : State) : Host.Outcome State Fault Refusal :=
  let n := fun i => (body.getD i 0).toNat
  s.serve false ep 0x01 (n 2) none (fun s =>
    if !pldmTypes.contains (n 1 % 64) then s.tell ep 0x01 (n 2) 5 []
    else if n 2 = 4 then s.tell ep 0x01 4 0 (numItems pldmTypes)
    else if n 2 = 5 ∧ !pldmTypes.contains (n 3) then s.tell ep 0x01 5 0x83 []
    else s.tellStd ep 0x01 (n 2) body)

/-- DYNAMIC_ADDRESS_ASSIGNMENT (R494). -/
def execDynamicAddressAssignment (port addr : Nat) (s : State) : Host.Outcome State Fault Refusal :=
  if port < 2 ∧ addr < 128 ∧ s.awake then .next (s.setChim { s.chim with i3c := Tab.set natReset s.chim.i3c port addr })
  else .next s

/-! ### Firmware update -/

/-- Completion codes of PLDM firmware update: no update, an update in progress. -/
def notInUpdate : Nat := 0x80
def alreadyInUpdate : Nat := 0x81

/-- The update in progress of an agent. -/
def Chim.updateOf (c : Chim) (ep : Peer) : Option FwUpd := c.update.filter (fun u => u.ep == ep)

/-- A bank that an update has ended badly for (R445). -/
def Chim.spoil (c : Chim) : Chim :=
  { c with update := none, invalid := if c.invalid.contains (1 - c.active) then c.invalid else c.invalid ++ [1 - c.active] }

/-- REQUEST_UPDATE (R445). -/
def execRequestUpdate (ep : Peer) (s : State) : Host.Outcome State Fault Refusal :=
  s.serve true ep 0x01 0x10 none (fun s =>
    if s.chim.update.isSome then s.tell ep 0x01 0x10 alreadyInUpdate []
    else (s.setChim { s.chim with update := some { ep } }).tell ep 0x01 0x10 0 [])

/-- A request of an update agent: `f` serves it where the update in progress is the agent's. -/
def State.inUpdate (s : State) (ep : Peer) (code : Nat) (f : State → FwUpd → State) : Host.Outcome State Fault Refusal :=
  s.serve true ep 0x01 code none (fun s =>
    match s.chim.updateOf ep with
    | none => s.tell ep 0x01 code notInUpdate []
    | some u => f s u)

/-- COMPONENT_TRANSFER (R445 step 1): the image goes into the inactive bank; a failure to write flash (no `image`) ends the
update. -/
def execComponentTransfer (ep : Peer) (comp : Nat) (image : Option (List Byte)) (s : State) : Host.Outcome State Fault Refusal :=
  s.inUpdate ep 0x16 (fun s u =>
    if comp = 0 ∨ 5 < comp then s.tell ep 0x01 0x16 1 []
    else if image.isNone then (s.setChim s.chim.spoil).tell ep 0x01 0x16 1 [(comp : Int)]
    else
      let c := s.chim
      let c := { c with images := Tab.set imageReset c.images (8 * (1 - c.active) + comp) image,
                        update := some { u with got := if u.got.contains comp then u.got else u.got ++ [comp], verified := false } }
      (s.setChim c).tell ep 0x01 0x16 0 [(comp : Int)])

/-- The components that the agent did not send are copied from the active bank (R445 step 1). -/
def Chim.fill (c : Chim) (got : List Nat) : Chim :=
  ([1, 2, 3, 4, 5].filter (fun k => !got.contains k)).foldl (fun c k =>
    { c with images := Tab.set imageReset c.images (8 * (1 - c.active) + k) (Tab.get imageReset c.images (8 * c.active + k)) }) c

/-- VERIFY_COMPLETE (R444, R445 step 2): a failure ends the update, marks the bank invalid and raises the Snuffer alarm. -/
def execVerifyComplete (ep : Peer) (s : State) : Host.Outcome State Fault Refusal :=
  s.inUpdate ep 0x17 (fun s u =>
    let c := s.chim.fill u.got
    let b := 1 - c.active
    match [1, 2, 3, 4, 5].find? (fun k => !c.compOk b k) with
    | some k =>
      let img := c.image b k
      (((s.setChim c.spoil).logFw k (hdr img 95 64) b 1).tell ep 0x01 0x17 1 [(k : Int), (c.imageFails k img : Int)]).snuffer 0
    | none =>
      let c := { c with update := some { u with verified := true }, invalid := c.invalid.filter (· != b) }
      ((s.setChim c).logFw 0 0 b 0).tell ep 0x01 0x17 0 [])

/-- ACTIVATE_FIRMWARE (R445 step 3, R446): the boot pointer names the new bank; a new Chimney image starts. -/
def execActivateFirmware (ep : Peer) (s : State) : Host.Outcome State Fault Refusal :=
  s.inUpdate ep 0x1A (fun s u =>
    if !u.verified then s.tell ep 0x01 0x1A 1 []
    else
      let old := s.chim.active
      let s := (s.setChim { s.chim with active := 1 - old, update := none }).tell ep 0x01 0x1A 0 []
      if u.got.contains 1 then
        let s := s.chimRestart
        if s.chim.runs = old ∨ s.chim.recovery then s else s.setChim { s.chim with probation := some (s.now, old) }
      else s)

/-- FIRMWARE_HEALTH_TIMEOUT (R446): the ROM restores the bank before the new firmware's. -/
def execFirmwareHealthTimeout (s0 : State) : Host.Outcome State Fault Refusal :=
  match (if s0.pwr.aux then s0.chim.probation else none) with
  | none => .next s0
  | some (t, old) =>
    let s := s0.timeTo (t + 5000000000)
    let bank := s.chim.active
    let s := (s.setChim { s.chim with active := old, probation := none }).chimRestart
    .next (s.logFw 1 (hdr (s.chim.image bank 1) 95 64) bank 1)

/-- MARK_HEALTHY (R446): the new firmware does it once it runs. -/
def execMarkHealthy (s : State) : Host.Outcome State Fault Refusal :=
  match s.chim.probation with
  | none => .next s
  | some _ => if s.awake then .next (s.setChim (({ s.chim with probation := none } : Chim).raiseSvn [1])) else .next s

/-- CANCEL_UPDATE (R445). -/
def execCancelUpdate (ep : Peer) (s : State) : Host.Outcome State Fault Refusal :=
  s.inUpdate ep 0x1D (fun s _ => (s.setChim s.chim.spoil).tell ep 0x01 0x1D 0 [])

/-- GET_FIRMWARE_PARAMETERS (R445, R452): versions of what runs, then those of the active bank, if it waits for a package reset. -/
def execGetFirmwareParameters (ep : Peer) (s : State) : Host.Outcome State Fault Refusal :=
  s.serve true ep 0x01 0x02 none (fun s =>
    let c := s.chim
    let vers (f : Nat → List Byte) : List Int := [1, 2, 3, 4, 5].map (fun k => (hdr (f k) 95 64 : Int))
    s.tell ep 0x01 0x02 0 (vers c.runImage ++ (if c.pkgBank = c.active then [] else vers (c.image c.active))))

/-! ### SPDM -/

/-- SPDM error codes. -/
def errInvalidRequest : Nat := 0x01
def errInvalidSession : Nat := 0x02
def errUnexpected : Nat := 0x04
def errUnspecified : Nat := 0x05
def errDecrypt : Nat := 0x06
def errSessionLimit : Nat := 0x0A

def State.spdm (s : State) (ep : Peer) (code : Nat) (items : List Int) (sess : Option Nat := none) : State := s.tell ep 0x05 code 0 items sess
def State.spdmErr (s : State) (ep : Peer) (code err : Nat) (sess : Option Nat := none) : State := s.tell ep 0x05 code err [] sess

/-- How far a requester's connection has come. -/
def State.connOf (s : State) (ep : Peer) : Nat := Tab.get natReset s.chim.conn ep.no
def State.setConn (s : State) (ep : Peer) (n : Nat) : State := s.setChim { s.chim with conn := Tab.set natReset s.chim.conn ep.no n }

/-- An authentication failure (R450): logged; `SPDM_FAIL_THRESH` of them within 60 s raise the alarm. The kinds: 0 CHALLENGE, 1
KEY_EXCHANGE, 2 FINISH, 3 a tag, 4 a sequence number (log entry 33). -/
def State.authFail (s0 : State) (ep : Peer) (kind : Nat) : State :=
  let s := s0.logRec 10 (leBytes 2 ep.eid ++ leBytes 1 kind)
  let l := s.now :: s.chim.fails.filter (fun t => decide (s.now - t ≤ 60000000000))
  let s := s.setChim { s.chim with fails := l }
  if s.rf rSnufferPolicy 23 16 ≤ l.length then s.snuffer 3 else s

/-- An SPDM request outside a session, of a connection that has come to step `need`. -/
def State.spdmReq (s : State) (ep : Peer) (code : Nat) (need : Nat → Bool) (lim : Option Nat) (f : State → State) :
    Host.Outcome State Fault Refusal :=
  s.serve false ep 0x05 code lim (fun s => if need (s.connOf ep) then f s else s.spdmErr ep code errUnexpected)

/-- The body that the standard gives an SPDM answer. -/
def State.spdmBody (s : State) (ep : Peer) (code : Nat) (req : List Byte) : List Byte :=
  Config.standardBody code req (s.chim.digest ep.bind)

/-- The SPDM version that Chimney speaks, and no other (R448): 1.2, as the standard codes it. -/
def spdmVersions : List Nat := [0x12]

/-- What Chimney is capable of (R448), by the standard's bits of GET_CAPABILITIES (log entry 30): certificates, CHALLENGE, signed measurements,
encryption and authentication of secured messages, mutual authentication, KEY_EXCHANGE, HEARTBEAT, KEY_UPDATE. -/
def spdmCaps : List Nat := [1, 2, 4, 6, 7, 8, 9, 13, 14]

/-- The algorithms that R448 names: signature, digest, key exchange, secured messages. -/
inductive Alg where
  | ecdsaP384 | sha384 | secp384r1 | aes256gcm
deriving DecidableEq, Repr

def Alg.no : Alg → Nat
  | .ecdsaP384 => 0 | .sha384 => 1 | .secp384r1 => 2 | .aes256gcm => 3

/-- The algorithms that Chimney offers: these and no other (R448). -/
def spdmAlgs : List Alg := [.ecdsaP384, .sha384, .secp384r1, .aes256gcm]

/-- GET_VERSION (R448): the versions, before the rest of the standard's body. -/
def execGetVersion (ep : Peer) (s : State) : Host.Outcome State Fault Refusal :=
  s.spdmReq ep 0x84 (fun _ => true) none (fun s => (s.setConn ep 1).spdm ep 0x84 (numItems spdmVersions ++ asItems (s.spdmBody ep 0x84 [])))

/-- GET_CAPABILITIES (R448): the capabilities, before the rest of the standard's body. -/
def execGetCapabilities (ep : Peer) (s : State) : Host.Outcome State Fault Refusal :=
  s.spdmReq ep 0xE1 (· == 1) none (fun s => (s.setConn ep 2).spdm ep 0xE1 (numItems spdmCaps ++ asItems (s.spdmBody ep 0xE1 [])))

/-- NEGOTIATE_ALGORITHMS (R448): the answer names the supported algorithms and no others. -/
def execNegotiateAlgorithms (ep : Peer) (offered : List Byte) (s : State) : Host.Outcome State Fault Refusal :=
  s.spdmReq ep 0xE3 (· == 2) none (fun s => (s.setConn ep 3).spdm ep 0xE3
    (numItems (spdmAlgs.map Alg.no) ++ asItems (s.spdmBody ep 0xE3 offered)))

/-- The three certificates of slot 0 (R448): Dwegerad's root, the device's, and the one for the identity key of the running image. -/
def Chim.certs (c : Chim) : List (List Byte) := [Config.rootCert, Config.deviceCert, c.issued]

/-- The certificate chain of slot 0. -/
def Chim.chain (c : Chim) : List Byte := c.certs.flatten

def execGetDigests (ep : Peer) (s : State) : Host.Outcome State Fault Refusal :=
  s.spdmReq ep 0x81 (fun n => decide (3 ≤ n)) none (fun s => s.spdm ep 0x81 (asItems (Config.sha384 s.chim.chain)))

def execGetCertificate (ep : Peer) (slot off len : Nat) (s : State) : Host.Outcome State Fault Refusal :=
  s.spdmReq ep 0x82 (fun n => decide (3 ≤ n)) none (fun s =>
    if slot ≠ 0 ∨ s.chim.chain.length < off then s.spdmErr ep 0x82 errInvalidRequest
    else s.spdm ep 0x82 (asItems (slice s.chim.chain off len)))

/-- CHALLENGE (R448, R450, Table MG-11): a signature with the identity key, unless that is erased; a failed check is an authentication
failure. -/
def execChallenge (ep : Peer) (c : Challenge) (s : State) : Host.Outcome State Fault Refusal :=
  s.spdmReq ep 0x83 (fun n => decide (3 ≤ n)) within50ms (fun s =>
    match s.chim.idKey with
    | none => s.spdmErr ep 0x83 errUnspecified
    | some k =>
      if !c.good then (s.authFail ep 0).spdmErr ep 0x83 errInvalidRequest
      else
        let body := s.spdmBody ep 0x83 c.nonce
        s.spdm ep 0x83 (asItems (body ++ Config.ecdsaSign k body)))

/-- Measurement block `i` (R448). -/
def State.measurement (s : State) (i : Nat) : List Byte :=
  let c := s.chim
  if i = 1 then c.measure
  else if i ≤ 5 then Config.sha384 (c.runImage i)
  else if i = 6 then [1, 2, 3, 4, 5].flatMap (fun k => leBytes 1 (Tab.get natReset c.svn k)) ++
    (List.range 4).map (fun k => BitVec.ofNat 8 (b2n (Config.keyRevoked k)))
  else if i = 7 then BitVec.ofNat 8 (b2n s.locked) :: c.lockMeas.getD []
  else leBytes 8 (s.reg rSnufferStatus).toNat

/-- The session of a requester. -/
def Chim.sessOf (c : Chim) (ep : Peer) (id : Nat) : Option Sess := c.sessions.find? (fun x => x.ep == ep && x.id == id)

/-- Replace a session, or take it out. -/
def Chim.putSess (c : Chim) (id : Nat) (x : Option Sess) : Chim :=
  { c with sessions := c.sessions.flatMap (fun y => if y.id == id then (match x with | some z => [z] | none => []) else [y]) }

/-- A message inside a session: `f` acts where its tag authenticates and its sequence number is the next (R450). -/
def State.inSession (s : State) (ep : Peer) (m : Secure) (code : Nat) (f : Sess → State → State) : State :=
  match s.chim.sessOf ep m.sess with
  | none => s.spdmErr ep code errInvalidSession
  | some x =>
    if !x.open_ then s.spdmErr ep code errUnexpected
    else if !Config.authOk x.key m.auth.tag then (s.authFail ep 3).spdmErr ep code errDecrypt
    else if m.auth.seq ≠ x.rx then (s.authFail ep 4).spdmErr ep code errDecrypt
    else
      let x := { x with rx := x.rx + 1 }
      f x (s.setChim (s.chim.putSess x.id (some x)))

/-- A message that comes inside a session or not. -/
def State.maybeIn (s : State) (ep : Peer) (sess : Option Secure) (code : Nat) (f : Option Nat → State → State) : State :=
  match sess with
  | none => f none s
  | some m => s.inSession ep m code (fun x s => f (some x.id) s)

/-- The measurement blocks that an index asks for: 0 their number, 255 all (R448). -/
def State.measureBody (s : State) (index : Nat) : List Byte :=
  if index = 0 then [8#8]
  else if index = 255 then (rangeFrom 1 8).flatMap (fun i => BitVec.ofNat 8 i :: s.measurement i)
  else BitVec.ofNat 8 index :: s.measurement index

/-- GET_MEASUREMENTS (R448). -/
def execGetMeasurements (ep : Peer) (sess : Option Secure) (index : Nat) (sign : Bool) (nonce : List Byte) (s : State) :
    Host.Outcome State Fault Refusal :=
  s.serve false ep 0x05 0xE0 (if sign then within50ms else none) (fun s => s.maybeIn ep sess 0xE0 (fun w s =>
    if s.connOf ep < 3 ∧ w.isNone then s.spdmErr ep 0xE0 errUnexpected
    else if 8 < index ∧ index ≠ 255 then s.spdmErr ep 0xE0 errInvalidRequest w
    else
      let body := s.measureBody index
      if !sign then s.spdm ep 0xE0 (asItems body) w
      else match s.chim.idKey with
        | none => s.spdmErr ep 0xE0 errUnspecified w
        | some k => s.spdm ep 0xE0 (asItems (body ++ nonce ++ Config.ecdsaSign k (body ++ nonce))) w))

/-- KEY_EXCHANGE (R448, R450): one of at most four sessions begins, with mutual authentication: the answer (its second item) asks for it, and a
requester that does not authenticate gets no session. -/
def execKeyExchange (ep : Peer) (body : List Byte) (authGood : Bool) (s : State) : Host.Outcome State Fault Refusal :=
  s.spdmReq ep 0xE4 (fun n => decide (3 ≤ n)) within50ms (fun s =>
    match s.chim.idKey with
    | none => s.spdmErr ep 0xE4 errUnspecified
    | some k =>
      if !authGood then (s.authFail ep 1).spdmErr ep 0xE4 errDecrypt
      else if 4 ≤ s.chim.sessions.length then s.spdmErr ep 0xE4 errSessionLimit
      else
        let id := s.chim.nextSess
        let x : Sess := { id, ep, key := Config.sessionKey body id, open_ := false }
        let r := s.spdmBody ep 0xE4 body
        (s.setChim { s.chim with sessions := s.chim.sessions ++ [x], nextSess := id + 1 }).spdm ep 0xE4
          ((id : Int) :: 1 :: asItems (r ++ Config.ecdsaSign k r)))

/-- FINISH (R448, R450): its answer is the session's first secured message. -/
def execFinish (ep : Peer) (sess : Nat) (verify : List Byte) (s : State) : Host.Outcome State Fault Refusal :=
  s.serve false ep 0x05 0xE5 none (fun s =>
    match s.chim.sessOf ep sess with
    | none => s.spdmErr ep 0xE5 errInvalidSession
    | some x =>
      if x.open_ then s.spdmErr ep 0xE5 errUnexpected
      else if Config.authOk x.key verify then
        (s.setChim (s.chim.putSess sess (some { x with open_ := true }))).spdm ep 0xE5 [] (some sess)
      else ((s.setChim (s.chim.putSess sess none)).authFail ep 2).spdmErr ep 0xE5 errDecrypt)

def execHeartbeat (ep : Peer) (sess : Nat) (tag : SecTag) (s : State) : Host.Outcome State Fault Refusal :=
  s.serve false ep 0x05 0xE8 none (fun s => s.inSession ep ⟨sess, tag⟩ 0xE8 (fun x s => s.spdm ep 0xE8 [] (some x.id)))

/-- KEY_UPDATE: the session's keys are derived anew. -/
def execKeyUpdate (ep : Peer) (sess : Nat) (tag : SecTag) (s : State) : Host.Outcome State Fault Refusal :=
  s.serve false ep 0x05 0xE9 none (fun s => s.inSession ep ⟨sess, tag⟩ 0xE9 (fun x s =>
    (s.setChim (s.chim.putSess x.id (some { x with key := Config.sessionKey x.key x.id, rx := 0 }))).spdm ep 0xE9 [] (some x.id)))

def execEndSession (ep : Peer) (sess : Nat) (tag : SecTag) (s : State) : Host.Outcome State Fault Refusal :=
  s.serve false ep 0x05 0xEC none (fun s => s.inSession ep ⟨sess, tag⟩ 0xEC (fun x s =>
    (s.setChim (s.chim.putSess x.id none)).spdm ep 0xEC [] (some x.id)))

/-! ### Vendor-defined messages (Table MG-5) -/

/-- What a register reads (R9, R468): WO fields read 0; the supply of a zone is what its rule gives (R59), the events of a tile are those
within `QUAR_WINDOW` now (R476). -/
def State.readReg (s : State) (off : Nat) : W64 :=
  let v := (regFields off).foldl (fun v f => if f.acc = .wo then setFld v f.hi f.lo 0 else v) (s.reg off)
  match inst off 0x1540 8 38 0, inst off (rTileHealth 0) 0x20 104 0 with
  | some z, _ => setFld v 31 16 (s.supplies.getD z 0)
  | _, some j => setFld v 9 8 (min (s.recent j).length 3)
  | _, _ => v

/-- What a host read of BAR0 returns, and what its completion orders (R387, R389): window writes before it. No row of the table is such
a read: it is no command (log entries 74, 96). -/
def State.bar0Read (s : State) (off : Nat) : State × W64 :=
  ({ s with host := { s.host with winRead := s.host.win.length } }, s.readReg off)

/-- A reading of the latest snapshot (R435): sites 0-95, then voltage and current of the zones and of the stacks, then the input's. -/
def State.snapped (s : State) (i : Nat) : Int := ((s.chim.snap.find? (fun r => r.1 == i)).map (·.2)).getD 0

/-- Status and content of an answer; `none` for an unknown command. -/
structure Reply where
  status : Nat
  items : List Int := []
deriving DecidableEq, Repr

/-- GET_SENSORS: the readings and the snapshot's uptime. -/
def State.ansSensors (s : State) (first count : Nat) : Reply :=
  if 96 < count ∨ 96 < first + count then ⟨2, []⟩
  else ⟨0, (rangeFrom first count).map s.snapped ++ [(s.chim.snapAt : Int)]⟩

/-- GET_ZONE_POWER: voltage, current and throttle state. -/
def State.ansZonePower (s : State) (ofStacks : Bool) (first count : Nat) : Reply :=
  if (if ofStacks then 24 else zoneCount) < first + count then ⟨2, []⟩
  else ⟨0, (rangeFrom first count).flatMap (fun i =>
    let b := if ofStacks then 172 + 2 * i else 96 + 2 * i
    [s.snapped b, s.snapped (b + 1), if ofStacks then 0 else (s.rf (rZoneStatus i) 9 8 : Nat)])⟩

/-- READ_LOG: the records that flash holds of those asked for (R441, R442): how many have been written before their 5 ms is free; one
whose CRC fails is absent. -/
def State.ansLog (s : State) (first count : Nat) : State × Reply :=
  if 14 < count then (s, ⟨2, []⟩)
  else
    let v := s.freeByte
    let c := (v.2.chim.writeDue s.now).writeRecs v.1.toNat
    let rs := c.log.filter (fun r => decide ((r.seq + 2 ^ 32 - first % 2 ^ 32) % 2 ^ 32 < count) && r.crc == crc32c r.bytes)
    (v.2.setChim c, ⟨0, rs.flatMap (fun r => asItems (r.bytes ++ leBytes 4 r.crc))⟩)

/-- GET_HEALTH: health table, replacement flags, SNUFFER_STATUS, the bank that the package runs, the active bank and the wait of step 2
of Table SU-3. -/
def State.ansHealth (s : State) : Reply :=
  let c := s.chim
  let n (x : Nat) : Int := x
  ⟨0, [n c.dies.length] ++ c.dies.flatMap (fun d => [n d.1, n d.2]) ++ [n c.tiles.length] ++ c.tiles.map n ++
    [n c.pairs.length] ++ c.pairs.map n ++ [n c.replace.length] ++ c.replace.flatMap (fun r => [n r.1, n r.2]) ++
    [n (s.reg rSnufferStatus).toNat, n c.pkgBank, n c.active, n (b2n (s.pwr.pkg == .off))]⟩

/-- READ_CAP (R453): from the package, or from Chimney's copy. -/
def State.ansCap (s : State) (off : Nat) : Reply :=
  if off % 16 ≠ 0 ∨ (capRecord (off / 16)).isNone then ⟨2, []⟩
  else ⟨0, [((regReset off).toNat : Int), ((regReset (off + 8)).toNat : Int), (b2n !(s.pwr.pkg == .released && !s.flt.fatal) : Nat)]⟩

/-- READ_REG: no register read has a side effect; the package must have power. -/
def State.ansReg (s : State) (off : Nat) : State × Reply :=
  if off % 8 ≠ 0 ∨ 2 ^ 26 ≤ off then (s, ⟨2, []⟩)
  else if s.pwr.pkg = .off then (s.freeByte.2, ⟨s.freeByte.1.toNat, []⟩)
  else (s, ⟨0, [((s.readReg off).toNat : Int)]⟩)

/-- The job report of a domain (R449). -/
def State.ansReport (s : State) (d : Nat) (nonce : List Byte) : Reply :=
  if 256 ≤ d ∨ nonce.length ≠ 32 then ⟨2, []⟩
  else match Tab.get keyReset s.chim.jobKeys d with
    | none => ⟨5, []⟩
    | some k =>
      let m := nonce ++ (rangeFrom 1 7).flatMap s.measurement ++ wordsBytes ((List.range 8).map (fun i => s.reg (rDomFirstErr d + 8 * i))) ++
        leBytes 4 (s.rf (rStepLastSealed d) 31 0)
      ⟨0, asItems (Config.hmac384 k m)⟩

/-- Answer a vendor-defined request. -/
def State.reply (s : State) (ep : Peer) (code : Nat) (r : Reply) (sess : Option Nat := none) : State := s.tell ep 0x7E code r.status r.items sess

/-- A vendor-defined request that needs no session. -/
def State.vendor (s : State) (ep : Peer) (code : Nat) (f : State → State × Reply) : Host.Outcome State Fault Refusal :=
  s.serve false ep 0x7E code within1ms (fun s => (f s).1.reply ep code (f s).2)

def execGetSensors (ep : Peer) (first count : Nat) (s : State) : Host.Outcome State Fault Refusal :=
  s.vendor ep 0x01 (fun s => (s, s.ansSensors first count))
def execGetZonePower (ep : Peer) (ofStacks : Bool) (first count : Nat) (s : State) : Host.Outcome State Fault Refusal :=
  s.vendor ep 0x02 (fun s => (s, s.ansZonePower ofStacks first count))
def execReadLog (ep : Peer) (first count : Nat) (s : State) : Host.Outcome State Fault Refusal :=
  s.vendor ep 0x03 (fun s => s.ansLog first count)
/-- GET_HEALTH, in recovery mode too (R447). -/
def execGetHealth (ep : Peer) (s : State) : Host.Outcome State Fault Refusal :=
  s.serve true ep 0x7E 0x04 within1ms (fun s => s.reply ep 0x04 s.ansHealth)
def execReadCap (ep : Peer) (off : Nat) (s : State) : Host.Outcome State Fault Refusal :=
  s.vendor ep 0x05 (fun s => (s, s.ansCap off))
def execReadReg (ep : Peer) (off : Nat) (s : State) : Host.Outcome State Fault Refusal :=
  s.vendor ep 0x06 (fun s => s.ansReg off)

/-- Chimney raises a Fatal fault (R436): source, condition code, site or zone; `supp` counts the other events of its cycle (R419). -/
def State.chimFatal (s : State) (code site acc : Nat) (supp : Nat := 0) : State :=
  s.fatal { cls := 3, src := if code = 1 then 52 else 53, mkind := 6, acc, detail := code + site * 256 } supp

/-- A request of Table MG-5 marked secured (R438): outside an open session of its requester it is answered with status 0x03 and has no
effect. -/
def State.needsSession (s : State) (ep : Peer) (sess : Option Secure) (code : Nat) (f : State → State × Reply) : Host.Outcome State Fault Refusal :=
  s.serve false ep 0x7E code within1ms (fun s =>
    match sess with
    | none => s.reply ep code ⟨3, []⟩
    | some m =>
      if ((s.chim.sessOf ep m.sess).map (·.open_)).getD false then
        s.inSession ep m code (fun x s => (f s).1.reply ep code (f s).2 (some x.id))
      else s.reply ep code ⟨3, []⟩)

/-- FORCE_STOP (R436, R438). -/
def execForceStop (ep : Peer) (sess : Option Secure) (s : State) : Host.Outcome State Fault Refusal :=
  s.needsSession ep sess 0x07 (fun s => (s.chimFatal 5 0 0, ⟨0, []⟩))

/-- SET_JOB_KEY (R438, R449): the words of the key are written anew. -/
def execSetJobKey (ep : Peer) (sess : Option Secure) (d : Nat) (key : List Byte) (s : State) : Host.Outcome State Fault Refusal :=
  s.needsSession ep sess 0x08 (fun s =>
    if 256 ≤ d ∨ key.length ≠ 48 then (s, ⟨2, []⟩)
    else
      let g := { s.integ with errs := s.integ.errs.filter (fun r => !(r.1.1 == .chimney && r.1.2 / 8 == d)) }
      ({ s with chim := { s.chim with jobKeys := Tab.set keyReset s.chim.jobKeys d (some key) }, integ := g }, ⟨0, []⟩))

/-- GET_JOB_REPORT (R439, R449), inside a session or not: the key's words are decoded (R433, R235). -/
def execGetJobReport (ep : Peer) (sess : Option Secure) (d : Nat) (nonce : List Byte) (s : State) : Host.Outcome State Fault Refusal :=
  s.serve false ep 0x7E 0x09 within50ms (fun s => s.maybeIn ep sess 0x09 (fun w s =>
    let s := s.seeSram .chimney
    s.reply ep 0x09 (s.ansReport d nonce) w))

/-- CLEAR_SNUFFER (R438). -/
def execClearSnuffer (ep : Peer) (sess : Option Secure) (s : State) : Host.Outcome State Fault Refusal :=
  s.needsSession ep sess 0x0A (fun s => (s.setReg rSnufferStatus 0#64, ⟨0, []⟩))

/-! ### The mailbox -/

/-- The reply to a mailbox request: its code is the first byte; secured ones are refused (R440). -/
def State.mailboxReply (s : State) (req : List Byte) : State × Nat × Reply :=
  let code := (req.getD 0 0).toNat
  let a := Config.requestArgs code (req.drop 1)
  let n (i : Nat) := a.getD i 0
  match code with
  | 0x01 => (s, code, s.ansSensors (n 0) (n 1))
  | 0x02 => (s, code, s.ansZonePower (n 0 != 0) (n 1) (n 2))
  | 0x03 => ((s.ansLog (n 0) (n 1)).1, code, (s.ansLog (n 0) (n 1)).2)
  | 0x04 => (s, code, s.ansHealth)
  | 0x05 => (s, code, s.ansCap (n 0))
  | 0x06 => ((s.ansReg (n 0)).1, code, (s.ansReg (n 0)).2)
  | 0x09 =>
    let s := s.seeSram .chimney
    (s, code, s.ansReport (n 0) (slice req (req.length - 32) 32))
  | 0x07 | 0x08 | 0x0A => (s, code, ⟨3, []⟩)
  | _ => (s, code, ⟨1, []⟩)

/-- Chimney answers the mailbox request that waits (R440, R481). -/
def State.answerMailbox (s0 : State) : State :=
  match s0.chim.mbx with
  | none => s0
  | some req =>
    if !s0.answers || s0.pwr.pkg != .released then s0
    else
      let r := s0.mailboxReply req
      let bs := (BitVec.ofNat 8 r.2.2.status :: Config.answerBytes r.2.1 r.2.2.items).take 256
      let s := r.1.setRegs rMbxRsp (bytesWords 32 (padTo 256 bs))
      let s := ((s.setRf rMbxCtl 40 32 bs.length).setRb rMbxCtl 17 false).setRb rMbxCtl 18 true
      let s := s.setChim { s.chim with mbx := none }
      if s.rb rMbxCtl 56 then s.sendMsix (s.rf rMbxCtl 55 48) else s

end Sys2Proof.Machine
end

