-- ==== Sys2Proof/Machine/Startup.lean ====
section
/-!
DEFINITION. Supplies, start-up and reset (17_start_up), the PCIe link (R461), the sensor snapshot and Chimney's Fatal conditions (R435,
R436).
-/
namespace Sys2Proof.Machine

/-! ### Level 0 and level 1 -/

/-- What Chimney keeps when the auxiliary domain has no power (R434, Table SU-2): fuses, flash, the log and the health table; what waited for the
log has been written in the hold-up time (Table MG-1). -/
def Chim.flash (c : Chim) : Chim :=
  let c := ((if c.update.isSome then c.spoil else c).writeRecs c.buf.length)
  { ran := c.ran, limits := c.limits, lost := c.lost, active := c.active, runs := c.runs, pkgBank := c.pkgBank, invalid := c.invalid, images := c.images, svn := c.svn,
    probation := c.probation, boot := c.boot, log := c.log, logSeq := c.logSeq, health := c.health,
    replace := c.replace }

/-- AUX_POWER_LOSS (R434, R445): every key in SRAM is lost. -/
def execAuxPowerLoss (s : State) : Host.Outcome State Fault Refusal :=
  .next { pending := s.pending, free := s.free, now := s.now, host := { posts := s.host.posts }, chim := s.chim.flash }

/-- INPUT_POWER_ON (Table SU-1, Table SU-3 step 1): the auxiliary domain and Chimney start. -/
def execInputPowerOn (s : State) : Host.Outcome State Fault Refusal :=
  if s.pwr.aux then .next s
  else
    let c := { s.chim.flash with idKey := some [] }
    let t : State := { pending := s.pending, free := s.free, now := s.now, host := { posts := s.host.posts },
                       regs := Tab.set regReset [] rResetCause 1#64, chim := c, pwr := { aux := true } }
    .next t.chimStart

/-- A reset input of level 1 (R455, R457): the held phase has to run again; a wait after a rail fault is over. -/
def State.resetPin (s : State) (cause : Nat) : State :=
  if !s.pwr.aux then s
  else
    let s := { s with pwr := { s.pwr with waitReset := false } }
    s.level1 cause (if s.pwr.pkg = .off then .off else .inReset)

/-- RESET_N_ASSERT. -/
def execResetNAssert (s : State) : Host.Outcome State Fault Refusal := .next (s.resetPin 2)

/-- PERST_N_ASSERT. -/
def execPerstNAssert (s : State) : Host.Outcome State Fault Refusal := .next (s.resetPin 3)

/-- The rails are turned off (R454): a reset of level 1, in which SMOKE_N follows `SMOKE_LEVEL`, high (R457, R492); a pulse runs on. -/
def State.railsOff (s : State) (waitReset waitInput : Bool) : State :=
  let t := s.level1 (s.rf rResetCause 2 0) .off
  { t with flt := { t.flt with pulse := s.flt.pulse, smoke := s.flt.pulse.isNone },
           pwr := { t.pwr with waitReset := t.pwr.waitReset || waitReset, waitInput := t.pwr.waitInput || waitInput } }

/-- INPUT_UNDERVOLTAGE (R454, R455, Table MG-4 code 2): the rails are turned off, and stay off until the input has been in range for 1 s,
also where they were off before. -/
def execInputUndervoltage (s : State) : Host.Outcome State Fault Refusal :=
  if !s.pwr.aux then .next s else .next ((s.chimFatal 2 0 9).railsOff false true)

/-- RAIL_FAULT (R454, Table MG-4 code 3). -/
def execRailFault (zone : Nat) (s : State) : Host.Outcome State Fault Refusal :=
  if s.pwr.pkg = .off then .next s else .next ((s.chimFatal 3 zone 9).railsOff true false)

/-- POWER_RESTORED (R455, Table SU-1): the input has been in range for 1 s; the package may be powered again. -/
def execPowerRestored (s : State) : Host.Outcome State Fault Refusal :=
  if s.pwr.waitInput then .next (({ s with pwr := { s.pwr with waitInput := false } } : State).setRf rResetCause 2 0 4)
  else .next s

/-! ### The held phase -/

/-- Step 8 and the redo of step 9 (R460): each die maps its logical tiles, ascending, to its tiles that are not quarantined. -/
def State.mapTiles (s : State) (die : Nat) : State :=
  let good := (rangeFrom (52 * die) 52).filter (fun j => !s.chim.tiles.contains j)
  let s := (rangeFrom (52 * die) 52).foldl (fun s j => s.setTileState j (if s.chim.tiles.contains j then 3 else 1) 0) s
  let s := ((good.take 48).zipIdx).foldl (fun s p =>
    ((s.setTileState p.1 0 p.2).setRf (rTileMap (48 * die + p.2)) 5 0 (p.1 % 52)).setRb (rTileMap (48 * die + p.2)) 8 false) s
  let s := (rangeFrom good.length (48 - good.length)).foldl (fun s l =>
    (s.setRf (rTileMap (48 * die + l)) 5 0 0).setRb (rTileMap (48 * die + l)) 8 true) s
  s.checkSpares die

/-- The Grate pairs of a stack that the health table leaves: with fewer than four the module is reported for replacement (R376). -/
def State.restorePairs (s : State) (k : Nat) : State :=
  let ps := (List.range 8).filter (fun i => !s.chim.pairs.contains (8 * k + i))
  let s := (s.setRf (rGratePairs k) 3 0 ps.length).setRf (rGratePairs k) 15 8 (ps.map (2 ^ ·)).sum
  if ps.length < 4 then s.replacement 2 k else s

/-- Step 8: die marks, Grate pairs and the tile map come from the health table, whose copies in flash may hold errors (R443, R460); a stack of
whose die mark no copy and no index is left decodes strictly (log entry 56). -/
def State.restoreHealth (s : State) (bad : List BadEntry) : State :=
  let s := s.setChim (bad.foldl Chim.hurtEntry s.chim)
  let s := (s.chim.marks .die).foldl (fun (s : State) m =>
    match m.2 with
    | none => s.setRb (rDieFailed m.1) 8 true
    | some d => s.setRf (rDieFailed m.1) 5 0 (d % 32 + 2 ^ 5)) s
  let s := (List.range 24).foldl State.restorePairs s
  (s.mapTiles 0).mapTiles 1

/-- The package stays in reset until the next reset. -/
def State.holdPkg (s : State) : State := { s with pwr := { s.pwr with pkg := .held } }

/-- A mismatch of the self-test in the log (R258, Table MG-7 kind 6): decoder, pattern, outputs; outputs that are longer than a record's
data go into as many records as they need, in order (log entry 97). -/
def State.logSelfTest (s : State) (t : Nat × Nat × Nat) : State :=
  let out := outBytes (testCodeOf t.1) t.2.2
  (List.range ((out.length + 27) / 28)).foldl (fun s i => s.logRec 6 (leBytes 2 t.1 ++ leBytes 2 t.2.1 ++ slice out (28 * i) 28)) s

/-- Steps 5-10 of Table SU-3. -/
def State.heldPhase (s0 : State) (o : PowerUp) : State :=
  let c := s0.chim
  match [2, 3, 4, 5].find? (fun k => !c.compOk c.active k) with
  | some k => (s0.logFw k (hdr (c.image c.active k) 95 64) c.active 1).holdPkg
  | none =>
    let s := s0.setChim ({ c with pkgBank := c.active }.start c.active [2, 3, 4, 5])
    match o.selfTest.filter (fun t => testFails t.1 t.2.1 t.2.2) with
    | t :: ts => ((t :: ts).foldl State.logSelfTest s).holdPkg
    | [] =>
      let s := s.restoreHealth o.badEntries
      let bad := o.tileFails.filter (fun f => f.1 < 2 && f.2.1 < 52 && !s.chim.tiles.contains (52 * f.1 + f.2.1))
      let s := bad.foldl (fun s f => s.logTile (52 * f.1 + f.2.1) (leBytes 4 f.2.2)) s
      let s := if bad.isEmpty then s else (s.mapTiles 0).mapTiles 1
      match o.stackFails.filter (· < 24) with
      | [] => { s with pwr := { s.pwr with pkg := .ready } }
      | ks => (ks.foldl (fun s k =>
          if s.chim.replace.contains (4, k) then s.logRec 7 [4#8, BitVec.ofNat 8 k] else s.replacement 4 k) s).holdPkg

/-- Does the latest snapshot show the input voltage in its range (step 2 of Table SU-3)? A snapshot without it shows no fault. -/
def State.inputOk (s : State) : Bool :=
  s.chim.snap.all (fun r => r.1 != 220 || (decide (s.chim.limits.inputLow ≤ r.2) && decide (r.2 ≤ s.chim.limits.inputHigh)))

/-- May Chimney start the package, or its held phase (R447, R454, R455; step 2 of Table SU-3: input voltage and coolant inlet of the latest
snapshot)? -/
def State.mayPower (s : State) : Bool :=
  s.answers &&
  (s.pwr.pkg == .inReset ||
    (s.pwr.pkg == .off && !s.pwr.waitReset && !s.pwr.waitInput && s.inputOk && decide (s.snapped 94 ≤ s.chim.limits.coolantStart)))

/-- PACKAGE_POWER_UP (R459, Table SU-3 steps 2-10): `o` says what the silicon answers. From the rails on this is a reset of level 1:
a Fatal fault that was raised while they were off stands no more (R423). -/
def execPackagePowerUp (o : PowerUp) (s : State) : Host.Outcome State Fault Refusal :=
  if !s.mayPower then .next s
  else if s.pwr.pkg = .off ∧ 2 ≤ o.railFails then .next { s with pwr := { s.pwr with waitReset := true } }
  else
    let s := if s.pwr.pkg = .off then s.level1 (s.rf rResetCause 2 0) .inReset else s
    .next ((s.logStart s.chim.active).heldPhase o)

/-- PACKAGE_RESET_RELEASE (Table SU-3 step 12, R461, R463): the strap is sampled; every enabled port trains. -/
def execPackageResetRelease (masterSel : Bool) (s : State) : Host.Outcome State Fault Refusal :=
  if s.pwr.pkg ≠ .ready then .next s
  else
    let s := { s with pwr := { s.pwr with pkg := .released, masterSel } }
    let s := s.setRb rRangeCtl 16 masterSel
    let s := (List.range 18).foldl (fun s p =>
      if s.rb (rPortCfg p) 0 then (s.setReg (rPortStatus p) 1#64).modPort p (fun t => { t with since := s.now }) else s) s
    .next (s.setChim (s.chim.raiseSvn [2, 3, 4, 5]))

/-! ### To the first stoke -/

/-- Patrol scrub begins its first passes (R462). -/
def State.startScrub (s : State) : State :=
  ((List.range 24) ++ rangeFrom 32 105).foldl (fun s k =>
    { s with integ := { s.integ with began := Tab.set natReset s.integ.began k s.now } }) s

/-- FRAME_REFERENCE_LOCK (R461-R463): the first stoke begins frame 0. -/
def execFrameReferenceLock (s : State) : Host.Outcome State Fault Refusal :=
  if s.pwr.pkg ≠ .released ∨ s.frame.locked then .next s
  else
    let s := { s with frame := { s.frame with locked := true, stokeAt := s.now }, pwr := { s.pwr with stoked := true },
                      flt := { s.flt with emberAt := s.now } }
    let s := if s.pwr.masterSel then s.setRf rRangeStatus 1 0 3 else s
    let s := s.setRf rEmberStatus 1 0 (if s.flt.fatal then 2 else if s.kicked then 0 else 1)
    .next ((s.stokeGate.stokeDamper 0).stokeZones.stokeWeights.staggerTests.startScrub)

/-- STOKE_OUT (R493): high for 1 µs from each stoke. -/
def State.stokeOut (s : State) : Bool := s.pwr.stoked && decide (s.now < s.frame.stokeAt + 1000)

/-! ### PCIe -/

/-- PCIE_LINK_UP (R461). -/
def execPcieLinkUp (s : State) : Host.Outcome State Fault Refusal :=
  if s.pwr.pkg = .released then .next { s with pwr := { s.pwr with pcieUp := true } } else .next s

/-- BAR0_READY (R461). -/
def execBar0Ready (s : State) : Host.Outcome State Fault Refusal :=
  if s.pwr.pcieUp then .next { s with pwr := { s.pwr with bar0 := true } } else .next s

/-- The three 64-bit memory BARs (Table HR-2): size, prefetchable. -/
def bars : List (Nat × Bool) := [(2 ^ 26, false), (2 ^ 21, false), (2 ^ 32, true)]

/-- A dword of the BARs as configuration space shows it, from what was last written (R386): the address bits above the size, the type
64-bit memory, the prefetchable bit. That they lie at 0x10 to 0x24 and how their low bits are coded is the standard's (log entry 34). -/
def barDword (off : Nat) (w : W32) : Option W32 :=
  if off < 0x10 ∨ 0x28 ≤ off then none
  else
    let b := bars.getD ((off - 0x10) / 8) (0, false)
    let m := 2 ^ 64 - b.1
    some (if off % 8 = 0 then (w &&& BitVec.ofNat 32 m) ||| BitVec.ofNat 32 (4 + 8 * b2n b.2) else w &&& BitVec.ofNat 32 (m / 2 ^ 32))

/-- Registers at a reset of level 2: the fields marked L2 take their reset values (R471). -/
def level2Regs (t : Tab W64) : Tab W64 :=
  (t.map (fun e => (e.1, regLevel2 e.1 e.2))).filter (fun e => e.2 != regReset e.1)

/-- A reset of level 2 (R456, R458): the host interface is reset, window writes in flight are dropped; domains that had an enabled command
ring fault, in ascending order (R419). -/
def State.level2 (s0 : State) : State :=
  let ds := (List.range 256).filter (((List.range 64).filter (fun r => s0.rb (rRingCfg r) 0)).map s0.ringDom).contains
  let s : State := { s0 with regs := level2Regs s0.regs, pwr := { s0.pwr with cfg := [], d3 := false, aerUe := 0#32, msixOn := false, msixMask := false },
                             pipe := { s0.pipe with rings := [], cpls := [] },
                             host := { posts := s0.host.posts, half := s0.host.half.filter (fun (u : Bool × Nat × Nat) => u.1) },
                             chim := { s0.chim with mbx := none } }
  ds.foldl (fun s d => s.contained d { cls := 2, src := 26 } []) s

/-- LEVEL2_RESET. -/
def execLevel2Reset (s : State) : Host.Outcome State Fault Refusal := .next s.level2

/-- Put a field into a dword. -/
def setFld32 (w : W32) (hi lo v : Nat) : W32 := BitVec.ofNat 32 (setFld (BitVec.ofNat 64 w.toNat) hi lo v).toNat

/-- A dword of the capabilities that Table HR-1 decides (R385; log entry 34): PCI Express device capabilities (payload, extended tags), device
control (payload and read request in force), link capabilities (x16 at 64 GT/s, no ASPM), device capabilities 2
(completion-timeout ranges A and B, no TPH), power-management status (D0 or D3hot), AER uncorrectable-error status and control (ECRC
generated and checked), the MSI-X capability (vectors, places of table and PBA). -/
def State.capDword (s : State) (off : Nat) (w : Option W32) : W32 :=
  let v := Config.cfgRead off w
  if off = Config.pcieCap + 4 then setFld32 (setFld32 v 2 0 (Nat.log2 (pcieSupport.maxPayload / 128))) 5 5 1
  else if off = Config.pcieCap + 8 then setFld32 (setFld32 v 7 5 (Nat.log2 (s.maxPayload / 128))) 14 12 (Nat.log2 (s.maxReadRequest / 128))
  else if off = Config.pcieCap + 0x0C then setFld32 (setFld32 (setFld32 v 3 0 6) 9 4 pcieSupport.lanes) 11 10 0
  else if off = Config.pcieCap + 0x24 then setFld32 (setFld32 v 3 0 3) 13 12 0
  else if off = Config.pmCap + 4 then setFld32 v 1 0 (3 * b2n s.pwr.d3)
  else if off = Config.aerCap + 4 then s.pwr.aerUe
  else if off = Config.aerCap + 0x18 then setFld32 (setFld32 (setFld32 v 5 5 1) 7 7 1) 8 8 (b2n s.ecrcCheck)
  else if off = Config.msixCap then setFld32 (setFld32 v 26 16 (pcieSupport.msixVectors - 1)) 31 30 (b2n s.pwr.msixMask + 2 * b2n s.pwr.msixOn)
  else if off = Config.msixCap + 4 then BitVec.ofNat 32 rMsixTable
  else if off = Config.msixCap + 8 then BitVec.ofNat 32 rMsixPba
  else v

/-- A configuration write (R385, R386, R414): of power states only D0 and D3hot are taken, AER status bits are cleared by a 1, Message Control
enables and masks MSI-X. A function that returns from D3hot to D0 is reset at level 2 (Table SU-1, cause 5). -/
def State.cfgWrite (s : State) (off : Nat) (v : W32) : State :=
  let x := BitVec.toNat v % 4
  let p := s.pwr
  let t : State := { s with pwr := { p with
    cfg := Tab.set w32Reset p.cfg off v
    d3 := if off = Config.pmCap + 4 ∧ (x = 0 ∨ x = 3) then x == 3 else p.d3
    aerUe := if off = Config.aerCap + 4 then p.aerUe &&& ~~~v else p.aerUe
    msixOn := if off = Config.msixCap then v.getLsbD 31 else p.msixOn
    msixMask := if off = Config.msixCap then v.getLsbD 30 else p.msixMask } }
  if p.d3 && !t.pwr.d3 then t.level2 else s.fireAll t

/-- CONFIGURATION_REQUEST (R461): retried until BAR0 is ready; what the dwords of configuration space mean that neither Table HR-1 nor
Table HR-2 decides is the standard's (log entry 34). -/
def execConfigurationRequest (isWrite : Bool) (off : Nat) (v : W32) (s : State) : Host.Outcome State Fault Refusal :=
  if !s.pwr.pcieUp then .next s
  else if !s.pwr.bar0 then .next (s.post (.cfg true 0#32))
  else if isWrite then .next ((s.cfgWrite off v).post (.cfg false 0#32))
  else
    .next (s.post (.cfg false ((barDword off (Tab.get w32Reset s.pwr.cfg off)).getD
      (s.capDword off ((s.pwr.cfg.find? (fun e => e.1 == off)).map (·.2))))))

/-! ### Chimney's sensors -/

/-- Junction sites of the latest snapshot at or above the threshold of the Fatal condition (Table MG-4). -/
def State.hotSites (s : State) : List Nat := (List.range 94).filter (fun i => decide (s.chim.limits.junction ≤ s.snapped i))

/-- The coolant inlet, site 94, above its limit for 10 s is a Fatal condition (Table MG-4): raised once, by the first snapshot that shows it. -/
def State.watchCoolant (s : State) : State :=
  if s.snapped 94 ≤ s.chim.limits.coolantHot then s.setChim { s.chim with hotSince := none }
  else match s.chim.hotSince with
  | none => s.setChim { s.chim with hotSince := some (s.now, false) }
  | some (t, raised) =>
    if raised ∨ s.now < t + s.chim.limits.coolantS * 1000000000 then s
    else (s.setChim { s.chim with hotSince := some (t, true) }).chimFatal 4 94 9

/-- SENSOR_SNAPSHOT (R435, R436): the snapshot, and the Fatal fault of a junction site at 110 degrees or more; further such sites are its
suppressed events (R419). -/
def execSensorSnapshot (readings : List (Nat × Int)) (s : State) : Host.Outcome State Fault Refusal :=
  if !s.answers then .next s
  else
    let t := (s.setChim { s.chim with snap := readings, snapAt := s.uptime }).watchCoolant
    match t.hotSites with
    | i :: more => .next (t.chimFatal 1 i 9 more.length)
    | [] => .next t

/-- CHIMNEY_FATAL_CONDITION (R436, Table MG-4). -/
def execChimneyFatalCondition (code site : Nat) (s : State) : Host.Outcome State Fault Refusal :=
  if !s.answers ∨ code = 0 ∨ 5 < code then .next s else .next (s.chimFatal code site (if code = 5 then 0 else 9))

end Sys2Proof.Machine
end

