-- ==== Sys2Proof/Machine/Dispatch.lean ====
section
/-!
DEFINITION. The dispatch: one arm per command, each a direct call of its meaning.
-/
namespace Sys2Proof.Machine

def exec (i : Instr) (s : State) : Host.Outcome State Fault Refusal :=
  match i with
  | .nop q => Sys2Proof.Machine.execNop q s
  | .wait q => Sys2Proof.Machine.execWait q s
  | .signal q => Sys2Proof.Machine.execSignal q s
  | .phase q => Sys2Proof.Machine.execPhase q s
  | .frameMark q => Sys2Proof.Machine.execFrameMark q s
  | .transfer id e => Sys2Proof.Machine.execTransfer id e s
  | .convert id e => Sys2Proof.Machine.execConvert id e s
  | .vclear id e => Sys2Proof.Machine.execVclear id e s
  | .hmul id e => Sys2Proof.Machine.execHmul id e s
  | .smul id e => Sys2Proof.Machine.execSmul id e s
  | .gather id e => Sys2Proof.Machine.execGather id e s
  | .scatter id e => Sys2Proof.Machine.execScatter id e s
  | .merge id e => Sys2Proof.Machine.execMerge id e s
  | .compact id e => Sys2Proof.Machine.execCompact id e s
  | .func id e => Sys2Proof.Machine.execFunc id e s
  | .route id e => Sys2Proof.Machine.execRoute id e s
  | .combine id e => Sys2Proof.Machine.execCombine id e s
  | .stepOpen q => Sys2Proof.Machine.execStepOpen q s
  | .stepSeal q => Sys2Proof.Machine.execStepSeal q s
  | .updateSchedule q => Sys2Proof.Machine.execUpdateSchedule q s
  | .updateRun id e => Sys2Proof.Machine.execUpdateRun id e s
  | .reduceScatter id e => Sys2Proof.Machine.execReduceScatter id e s
  | .allGather id e => Sys2Proof.Machine.execAllGather id e s
  | .allReduce id e => Sys2Proof.Machine.execAllReduce id e s
  | .broadcast id e => Sys2Proof.Machine.execBroadcast id e s
  | .ringDispatch r => Sys2Proof.Machine.execRingDispatch r s
  | .descriptorLoad q e => Sys2Proof.Machine.execDescriptorLoad q e s
  | .instructionAdmit q => Sys2Proof.Machine.execInstructionAdmit q s
  | .commandComplete id => Sys2Proof.Machine.execCommandComplete id s
  | .replay id e => Sys2Proof.Machine.execReplay id e s
  | .spareSwapDone die tile => Sys2Proof.Machine.execSpareSwapDone die tile s
  | .stoke testsFailed => Sys2Proof.Machine.execStoke testsFailed s
  | .guardInterval => Sys2Proof.Machine.execGuardInterval s
  | .reserveRelease => Sys2Proof.Machine.execReserveRelease s
  | .overrunLimit id => Sys2Proof.Machine.execOverrunLimit id s
  | .powerMonitorSample watts => Sys2Proof.Machine.execPowerMonitorSample watts s
  | .sensorSample temps => Sys2Proof.Machine.execSensorSample temps s
  | .decodeDeadline q => Sys2Proof.Machine.execDecodeDeadline q s
  | .arrivalWatchdog id => Sys2Proof.Machine.execArrivalWatchdog id s
  | .waitTimeout q => Sys2Proof.Machine.execWaitTimeout q s
  | .reductionDeadline id => Sys2Proof.Machine.execReductionDeadline id s
  | .collectiveBurst id port e => Sys2Proof.Machine.execCollectiveBurst id port e s
  | .updateBlockTake d e => Sys2Proof.Machine.execUpdateBlockTake d e s
  | .updateBatchIssue => Sys2Proof.Machine.execUpdateBatchIssue s
  | .microCommand st pairFails crcFails e => Sys2Proof.Machine.execMicroCommand st pairFails crcFails e s
  | .rollbackComplete d e => Sys2Proof.Machine.execRollbackComplete d e s
  | .smokePulseEnd => Sys2Proof.Machine.execSmokePulseEnd s
  | .emberToggle => Sys2Proof.Machine.execEmberToggle s
  | .emberKickTimeout => Sys2Proof.Machine.execEmberKickTimeout s
  | .irqGapExpiry v => Sys2Proof.Machine.execIrqGapExpiry v s
  | .msixUnmask v => Sys2Proof.Machine.execMsixUnmask v s
  | .patrolScrub w uncorrectable e => Sys2Proof.Machine.execPatrolScrub w uncorrectable e s
  | .scrubLate w => Sys2Proof.Machine.execScrubLate w s
  | .sramWriteBack tile bank => Sys2Proof.Machine.execSramWriteBack tile bank s
  | .testDue die phys => Sys2Proof.Machine.execTestDue die phys s
  | .testGraceExpiry die tile => Sys2Proof.Machine.execTestGraceExpiry die tile s
  | .tileStoreZeroed die tile => Sys2Proof.Machine.execTileStoreZeroed die tile s
  | .parameterMapLoaded d e => Sys2Proof.Machine.execParameterMapLoaded d e s
  | .answerBlockArrival c => Sys2Proof.Machine.execAnswerBlockArrival c s
  | .flitReceive p flit fecCe fecUe => Sys2Proof.Machine.execFlitReceive p flit fecCe fecUe s
  | .leaf p v => Sys2Proof.Machine.execLeaf p v s
  | .gatherPacket p v => Sys2Proof.Machine.execGatherPacket p v s
  | .streamPacket p v => Sys2Proof.Machine.execStreamPacket p v s
  | .window p v => Sys2Proof.Machine.execWindow p v s
  | .grant p v => Sys2Proof.Machine.execGrant p v s
  | .poison p v => Sys2Proof.Machine.execPoison p v s
  | .ready p v => Sys2Proof.Machine.execReady p v s
  | .stokeMarker p => Sys2Proof.Machine.execStokeMarker p s
  | .echoRequest p => Sys2Proof.Machine.execEchoRequest p s
  | .echoReply p turnPs => Sys2Proof.Machine.execEchoReply p turnPs s
  | .delayMeasurement => Sys2Proof.Machine.execDelayMeasurement s
  | .stokeMissing => Sys2Proof.Machine.execStokeMissing s
  | .rangeDetach => Sys2Proof.Machine.execRangeDetach s
  | .joiningStoke => Sys2Proof.Machine.execJoiningStoke s
  | .portDown p => Sys2Proof.Machine.execPortDown p s
  | .portUp p reversed credits => Sys2Proof.Machine.execPortUp p reversed credits s
  | .portTrainRetry p => Sys2Proof.Machine.execPortTrainRetry p s
  | .doorbellReadDone res block => Sys2Proof.Machine.execDoorbellReadDone res block s
  | .ringFetchDone r entries => Sys2Proof.Machine.execRingFetchDone r entries s
  | .kickWrite r off size v => Sys2Proof.Machine.execKickWrite r off size v s
  | .tallyPageWrite off size v => Sys2Proof.Machine.execTallyPageWrite off size v s
  | .stackWindowWrite off data => Sys2Proof.Machine.execStackWindowWrite off data s
  | .stackWindowRead off size => Sys2Proof.Machine.execStackWindowRead off size s
  | .setupLock w v => Sys2Proof.Machine.execSetupLock w v s
  | .stokeSwitchFrame w v => Sys2Proof.Machine.execStokeSwitchFrame w v s
  | .powerCap w v => Sys2Proof.Machine.execPowerCap w v s
  | .gateMode w v => Sys2Proof.Machine.execGateMode w v s
  | .stepAbandon w v => Sys2Proof.Machine.execStepAbandon w v s
  | .faultClear w v => Sys2Proof.Machine.execFaultClear w v s
  | .epochAdvance w c v => Sys2Proof.Machine.execEpochAdvance w c v s
  | .dieFailForce st v => Sys2Proof.Machine.execDieFailForce st v s
  | .emberKick => Sys2Proof.Machine.execEmberKick s
  | .tileDomain w die tile v => Sys2Proof.Machine.execTileDomain w die tile v s
  | .domainEnable w d v => Sys2Proof.Machine.execDomainEnable w d v s
  | .domainDisable w d v => Sys2Proof.Machine.execDomainDisable w d v s
  | .ptRoot w d v => Sys2Proof.Machine.execPtRoot w d v s
  | .routeCtlEnable w c v => Sys2Proof.Machine.execRouteCtlEnable w c v s
  | .cgroupEnable w k v e => Sys2Proof.Machine.execCgroupEnable w k v e s
  | .cgroupDisable w k v => Sys2Proof.Machine.execCgroupDisable w k v s
  | .streamEnable w n v => Sys2Proof.Machine.execStreamEnable w n v s
  | .ringEnable w r v => Sys2Proof.Machine.execRingEnable w r v s
  | .ringDisable w r v => Sys2Proof.Machine.execRingDisable w r v s
  | .cplRingEnable w c v => Sys2Proof.Machine.execCplRingEnable w c v s
  | .tallyOwner w b v => Sys2Proof.Machine.execTallyOwner w b v s
  | .portCfg w p v => Sys2Proof.Machine.execPortCfg w p v s
  | .rangeJoin w v => Sys2Proof.Machine.execRangeJoin w v s
  | .masterEnable w v => Sys2Proof.Machine.execMasterEnable w v s
  | .vcCfg w c v => Sys2Proof.Machine.execVcCfg w c v s
  | .registerWrite w off size v => Sys2Proof.Machine.execRegisterWrite w off size v s
  | .inputPowerOn => Sys2Proof.Machine.execInputPowerOn s
  | .packagePowerUp o => Sys2Proof.Machine.execPackagePowerUp o s
  | .packageResetRelease masterSel => Sys2Proof.Machine.execPackageResetRelease masterSel s
  | .frameReferenceLock => Sys2Proof.Machine.execFrameReferenceLock s
  | .pcieLinkUp => Sys2Proof.Machine.execPcieLinkUp s
  | .resetNAssert => Sys2Proof.Machine.execResetNAssert s
  | .perstNAssert => Sys2Proof.Machine.execPerstNAssert s
  | .level2Reset => Sys2Proof.Machine.execLevel2Reset s
  | .inputUndervoltage => Sys2Proof.Machine.execInputUndervoltage s
  | .railFault zone => Sys2Proof.Machine.execRailFault zone s
  | .powerRestored => Sys2Proof.Machine.execPowerRestored s
  | .auxPowerLoss => Sys2Proof.Machine.execAuxPowerLoss s
  | .sensorSnapshot readings => Sys2Proof.Machine.execSensorSnapshot readings s
  | .chimneyFatalCondition code site => Sys2Proof.Machine.execChimneyFatalCondition code site s
  | .firmwareHealthTimeout => Sys2Proof.Machine.execFirmwareHealthTimeout s
  | .mctpControl ep body => Sys2Proof.Machine.execMctpControl ep body s
  | .pldmBase ep body => Sys2Proof.Machine.execPldmBase ep body s
  | .requestUpdate ep => Sys2Proof.Machine.execRequestUpdate ep s
  | .componentTransfer ep comp image => Sys2Proof.Machine.execComponentTransfer ep comp image s
  | .verifyComplete ep => Sys2Proof.Machine.execVerifyComplete ep s
  | .activateFirmware ep => Sys2Proof.Machine.execActivateFirmware ep s
  | .cancelUpdate ep => Sys2Proof.Machine.execCancelUpdate ep s
  | .getVersion ep => Sys2Proof.Machine.execGetVersion ep s
  | .getCapabilities ep => Sys2Proof.Machine.execGetCapabilities ep s
  | .negotiateAlgorithms ep offered => Sys2Proof.Machine.execNegotiateAlgorithms ep offered s
  | .getDigests ep => Sys2Proof.Machine.execGetDigests ep s
  | .getCertificate ep slot off len => Sys2Proof.Machine.execGetCertificate ep slot off len s
  | .challenge ep c => Sys2Proof.Machine.execChallenge ep c s
  | .getMeasurements ep sess index sign nonce => Sys2Proof.Machine.execGetMeasurements ep sess index sign nonce s
  | .keyExchange ep body authGood => Sys2Proof.Machine.execKeyExchange ep body authGood s
  | .finish ep sess verify => Sys2Proof.Machine.execFinish ep sess verify s
  | .heartbeat ep sess tag => Sys2Proof.Machine.execHeartbeat ep sess tag s
  | .keyUpdate ep sess tag => Sys2Proof.Machine.execKeyUpdate ep sess tag s
  | .endSession ep sess tag => Sys2Proof.Machine.execEndSession ep sess tag s
  | .getSensors ep first count => Sys2Proof.Machine.execGetSensors ep first count s
  | .getZonePower ep ofStacks first count => Sys2Proof.Machine.execGetZonePower ep ofStacks first count s
  | .readLog ep first count => Sys2Proof.Machine.execReadLog ep first count s
  | .getHealth ep => Sys2Proof.Machine.execGetHealth ep s
  | .readCap ep off => Sys2Proof.Machine.execReadCap ep off s
  | .readReg ep off => Sys2Proof.Machine.execReadReg ep off s
  | .forceStop ep sess => Sys2Proof.Machine.execForceStop ep sess s
  | .setJobKey ep sess d key => Sys2Proof.Machine.execSetJobKey ep sess d key s
  | .getJobReport ep sess d nonce => Sys2Proof.Machine.execGetJobReport ep sess d nonce s
  | .clearSnuffer ep sess => Sys2Proof.Machine.execClearSnuffer ep sess s
  | .configurationRequest isWrite off v => Sys2Proof.Machine.execConfigurationRequest isWrite off v s
  | .bar0Ready => Sys2Proof.Machine.execBar0Ready s
  | .mailboxRequest w v => Sys2Proof.Machine.execMailboxRequest w v s
  | .dynamicAddressAssignment port addr => Sys2Proof.Machine.execDynamicAddressAssignment port addr s
  | .markHealthy => Sys2Proof.Machine.execMarkHealthy s
  | .getFirmwareParameters ep => Sys2Proof.Machine.execGetFirmwareParameters ep s

end Sys2Proof.Machine
end

