-- ==== Sys2Proof/Machine/Step.lean ====
section
/-!
DEFINITION. One step of the block: the command at the front of the queue takes effect on the rest of the state; on an
empty queue a nanosecond passes (log entry 3).
-/
namespace Sys2Proof.Machine

/-- A nanosecond, one count of the 1 GHz frame reference (R33), with no command: Chimney answers a mailbox request that waits (R481;
log entry 3). Nothing passes without auxiliary power. -/
def State.tick (s : State) : State := if s.pwr.aux then ({ s with now := s.now + 1 } : State).answerMailbox else s

/-- One step. -/
def step (s : State) : Host.Outcome State Fault Refusal :=
  match s.pending with
  | [] => .next s.tick
  | c :: cs => exec c { s with pending := cs }

/-- `s` with the command that a word of the table spells in front of its queue; the table gives no row bits, so no word
spells a command and `s` stays as it is. -/
def State.withFetchWord (s : State) (nbits w : Nat) : State :=
  match decodeTableWord nbits w with
  | some i => { s with pending := i :: s.pending }
  | none => s

end Sys2Proof.Machine
end

