-- ==== Sys2Proof/Safety.lean ====
section
/-!
DEFINITION. What counts as a safe run, and the words in which statements speak of commands: a command answers a state,
completes at the head of its queue, leaves registers or memory alone; the canonical form of the state's tables.
-/
namespace Sys2Proof.Machine

/-- A command answers a next state. -/
abbrev Answers (i : Instr) (s t : State) : Prop := exec i s = .next t

/-- A run is safe when it never stops: after every number of steps there is a next state. -/
def SafeRun (s : State) : Prop := ∀ n, ∃ t : State, Host.Core.run Sys2Proof.core n s = .next t

/-! ### Canonical form -/

/-- The register file is in its canonical form. -/
abbrev State.RegsWf (s : State) : Prop := Tab.wf regReset s.regs = true

/-- The memory of the module is in its canonical form. -/
def State.MemsWf (s : State) : Prop := s.mem.wf = true

/-! ### Frames -/

/-- The registers that an engine can change: the counters of what its reads meet and of comparisons without a check, and the producer
index of the fault ring (R239, R241, R246, R365, R425-R427). -/
def engineRegs : List Nat :=
  [cSramCe, cSramUe, cSeUnchecked, cFaultCe, cFaultLost, rFaultPi] ++
  (List.range 24).flatMap (fun st => [cXferRetry st, cRsErase st, cRsUe st] ++ (List.range 18).map (cRsCe st))

/-- Every register but those of a list keeps its value. -/
def SameRegs (s t : State) (but : List Nat) : Prop := ∀ a, a ∉ but → t.reg a = s.reg a

/-- The two words of the MSI-X pending-bit array and the counter of refused tallies: what the end of a command can touch. -/
def endRegs : List Nat := cTallyWriteErr :: (List.range 4).map (fun k => rMsixPba + 8 * k)

/-! ### The end of a command -/

/-- Is a completion record formed (R405, R396): its ring enabled (log entry 5), and no `QUIET` success without flags? -/
def State.records (s : State) (c : Cmd) (r : Res) : Bool :=
  s.rb (rCplCfg c.cpl) 0 && !(fbit (c.word 0) 19 && r.status == 0 && r.flags == {})

/-- The slot of the next record of completion ring `k` in host memory (R404). -/
def State.slotAddr (s : State) (k : Nat) : Nat := (s.reg (rCplBase k)).toNat + 32 * ((s.cpl k).pi % s.cplLen k)

/-- Is a tally signalled at the end of a command with a status (R405 step 2)? -/
def Cmd.signals (c : Cmd) (status : Nat) : Bool :=
  fbit (c.word 0) 16 && decide (status ≤ 3) && (!fbit (c.word 0) 17 || status == 0)

/-- From `s` to `t` a command has completed with an outcome: its tally is signalled, its record issued, the producer index of
its completion ring advanced; nothing but the end of a command can touch has changed. -/
structure Ends (s t : State) (c : Cmd) (r : Res) (rep : Bool) : Prop where
  /-- The tally named gets its amount, modulo 2^48, if the domain owns it; no other tally changes (R405, R409). -/
  tally : ∀ x, t.tally x = s.tally x +
    (if c.signals r.status = true ∧ s.tallyOk c.dom x = true ∧ x = fld (c.word 3) 16 0 then BitVec.ofNat 48 (fld (c.word 3) 63 32) else 0#48)
  /-- A tally outside the domain's blocks is counted instead. -/
  refused : t.reg cTallyWriteErr =
    (if c.signals r.status = true ∧ s.tallyOk c.dom (fld (c.word 3) 16 0) = false then (s.bump cTallyWriteErr 1).reg cTallyWriteErr
     else s.reg cTallyWriteErr)
  /-- The record is posted first; after it only the status block and the message of its vector can follow (R406, R414). -/
  record : s.records c r = true →
    ∃ rest, t.host.posts = s.host.posts ++
      .completion (s.slotAddr c.cpl) (c.recWords r rep (s.cpl c.cpl).pi (s.cplLen c.cpl) s.ftime s.frameNo) :: rest
  index : s.records c r = true → (t.cpl c.cpl).pi = ((s.cpl c.cpl).pi + 1) % 2 ^ 32
  silent : s.records c r = false → t.host = s.host ∧ t.pipe.cpls = s.pipe.cpls
  otherRings : ∀ k, k ≠ c.cpl → t.cpl k = s.cpl k
  regs : SameRegs s t endRegs
  frame : t = { s with regs := t.regs, host := t.host, pipe := { s.pipe with tally := t.pipe.tally, met := t.pipe.met, cpls := t.pipe.cpls } }

/-- The head of a queue, of an opcode, that the frame scheduler may serve (R42, R390, R420, R423). -/
def State.Serves (s : State) (q op : Nat) (h : QEnt) : Prop :=
  s.head q = some h ∧ h.cmd.opcode = op ∧ s.headServed q h.cmd = true

/-- The state in which a packet row finds a port: its buffer's words have been decoded (R246) and the interface's datapath checked (R366). -/
def State.taking (s : State) (p : Nat) : State := (s.seeSram (.port p)).useFd [.netif]

/-! ### Executions -/

/-- The state in which an execution row finds an admitted run: a VCLEAR's request has left the Grate units' FIFOs (R234), and the SRAM that
holds the command has been decoded (R246). -/
def State.used (s0 : State) (r : Run) : State :=
  let s := if r.cmd.opcode = oVclear then s0.unask (.job r.cmd.id) else s0
  let s := s.seeSram (.queue r.cmd.id)
  if r.cmd.opcode = oRoute then s.seeSram (.context r.cmd.ctxNo) else s

/-- The state in which a run executes: its consumers have taken the stream bytes that have come (R359). -/
def State.fed (s : State) (r : Run) : State := r.streams.foldl (fun s n => s.takeStream r.cmd.id n) (s.used r)

/-- SRAM whose words hold no errors, and units without residue mismatches: nothing is decoded or repeated where it is used. -/
def State.calm (s : State) : Prop := s.integ.errs = [] ∧ s.integ.resid = []

/-- What an engine leaves once its arrays are noted as used (R52). -/
def X.ran (x : X) : X := if x.stop.isSome || x.cause != 0 then x else { x with s := x.s.usedBy x.run }

/-- Execution `x` is the one that a row of an opcode makes of an admitted run, which `r` is with its stream bytes all there and with what
the Cocoon retains: `x` is what its engine makes of memory once the environment's errors have struck. -/
structure Executes (s : State) (id op : Nat) (e : Env) (r : Run) (x : X) : Prop where
  found : ∃ r0 r1, s.findRun id = some r0 ∧ r0.cmd.id = id ∧ r0.cmd.opcode = op ∧ r0.st = .admitted ∧
    (s.fed r0).findRun id = some r1 ∧ r1.streams.any (fun n => r1.wants n != 0) = false ∧ r = ((s.fed r0).entering r1 e).run ∧
    r.cmd.id = id ∧ r.cmd.opcode = op ∧ x = (((s.fed r0).entering r1 e).engine).ran ∧ x.run.cmd = r.cmd ∧ x.run.unit = r.unit
  live : s.flt.fatal = false
  single : r.unit.tile = none ∨ ∀ r0, s.findRun id = some r0 → ((s.fed r0).upsets e).rb (rTwinCtl r.cmd.dom) 0 = false
  calm : Env.strikes e 7 < 2
  next : op = oVclear → ∀ r0, s.findRun id = some r0 → r0.clearStacks.all (fun k => (s.fifo k).isEmpty || s.serves1 (.job id) k) = true

/-- An execution that is kept: no access failed, nothing stopped it, no check detected, it met no poisoned block in part. -/
def X.Kept (x : X) : Prop := x.stop = none ∧ x.cause = 0 ∧ x.det = false ∧ x.mergeReads.partialPoison = []

/-- The outcome of a kept execution (R80, R207, R251). -/
def X.outcome (x : X) : Res :=
  { status := if x.flush.pw.length = 0 then 0 else 2, flags := x.flags, aliased := x.run.aliased, result := x.result,
    offered := x.offered, done := x.done, dropped := x.dropped, poison := x.flush.pw.length, pAt := x.pAt.getD (0, 0, 0) }

/-- A byte of a tile store as the decoder delivers it, and whether its word is poisoned. -/
def State.tileRead (s : State) (key : Nat) : Byte × Bool :=
  let w := s.mem.seeWord (key / 8)
  (BitVec.ofNat 8 (fld w.1 (8 * (key % 8) + 7) (8 * (key % 8))), w.2.1)

/-- Where the bytes of an element of a descriptor lie in memory of the module; none for a byte that lies elsewhere. -/
def X.elLocs (x : X) (d : Desc) (l : Nat) : List (Option Nat) :=
  match d.at l with
  | some i => (List.range d.esz).map (fun k => x.locOf (d.place x.tile).1 ((d.place x.tile).2 + (d.byteOff i).1 + (k : Nat)))
  | none => []

/-! ### Collectives -/

/-- The state in which an admitted collective stands, before its own part is copied and before it sends (R347). -/
def State.stood (s0 : State) (r : Run) (e : Env) : State :=
  let s := (s0.upsets e).crossings e
  (({ s with fab := { s.fab with colls := s.fab.colls ++ [s.collOf r e] } } : State).modRun r.cmd.id
    (fun r => { r with st := .standing })).takeEarly r.cmd.id

end Sys2Proof.Machine
end

