-- ==== Sys2Proof/Certificates/Slice0/Obligations.lean ====
section
/-!
DEFINITION. The statements for the provers, each over the model's own functions; OBLIGATIONS.json says what each rests on.
-/
section Statements

open Sys2Proof Sys2Proof.Machine

/-! ### The machine -/

/-- The command at the front of the queue runs on the state with the queue's rest. -/
def Obligations.StepRunsFrontCommand : Prop :=
  ∀ (c : Instr) (cs : List Instr) (s : State), s.pending = c :: cs → step s = exec c { s with pending := cs }

/-- With no command a nanosecond passes while auxiliary power is on (log entry 3, DESIGN CHOICE); without it nothing happens. -/
def Obligations.EmptyQueueIdles : Prop :=
  ∀ s : State, s.pending = [] →
    (s.pwr.aux = true → s.chim.mbx = none → step s = .next { s with now := s.now + 1 }) ∧
    (s.pwr.aux = false → step s = .next s)

/-- No command of the table ends in a fault or a refusal: a run never stops. That a row out of its place, or one that names no subject, leaves
the state as it is, is the model's choice (log entry 7); so are idle steps (log entry 3). -/
def Obligations.NoRunStops : Prop := ∀ s : State, SafeRun s

/-- No command touches the queue of commands: a step takes the front command out and leaves the rest. -/
def Obligations.StepTakesOneCommand : Prop := ∀ s t : State, step s = .next t → t.pending = s.pending.tail

/-- Every step keeps the register file canonical: offsets strictly rising, no entry equal to the register's reset value. -/
def Obligations.RegistersStayCanonical : Prop := ∀ s t : State, s.RegsWf → step s = .next t → t.RegsWf

/-- Every step keeps memory in its canonical form. -/
def Obligations.MemoryStaysCanonical : Prop := ∀ s t : State, s.MemsWf → step s = .next t → t.MemsWf

/-! ### Commands of bound 0 -/

/-- NOP completes at once with no effect but its completion; as for every command, the entry is decoded first (R254) and the
scheduler's datapath checked (R366). -/
def Sys2Proof.Says.NopCompletes : Prop :=
  ∀ (q : Nat) (s0 : State) (h : QEnt), let s := s0.atHead q
    s.Serves q 0x00 h → ∃ t, exec (.nop q) s0 = .next t ∧ Ends (s.popHead q) t h.cmd {} false

/-- WAIT holds its queue until its counter is at least the target modulo 2^48 (the difference below 2^47), then completes; a signal
after which that held releases it, whatever the counter holds by then (R409). -/
def Sys2Proof.Says.WaitHoldsUntilTarget : Prop :=
  ∀ (q : Nat) (s0 : State) (h : QEnt), let s := s0.atHead q
    s.Serves q 0x01 h →
    let x := s.tally (fld (h.cmd.op 1) 16 0)
    let target := BitVec.ofNat 48 (fld (h.cmd.op 0) 47 0)
    ((x - target).toNat < 2 ^ 47 ∨ h.cmd.id ∈ s.pipe.met → ∃ t, exec (.wait q) s0 = .next t ∧ Ends (s.popHead q) t h.cmd {} false) ∧
    (2 ^ 47 ≤ (x - target).toNat → h.cmd.id ∉ s.pipe.met → exec (.wait q) s0 = .next s) ∧
    (∀ a, (x + BitVec.ofNat 48 a - target).toNat < 2 ^ 47 → h.cmd.id ∈ (s.signalTally (fld (h.cmd.op 1) 16 0) a).pipe.met)

/-- At the TIMEOUT-th stoke a WAIT whose condition still fails completes FAULTED with cause TIMEOUT (30), and its job faults with
source 25. -/
def Sys2Proof.Says.WaitTimesOut : Prop :=
  ∀ (q : Nat) (s0 : State) (h : QEnt), let s := s0.atHead q
    s.Serves q 0x01 h → 0 < fld (h.cmd.op 1) 31 24 → fld (h.cmd.op 1) 31 24 ≤ h.stokes →
    2 ^ 47 ≤ (s.tally (fld (h.cmd.op 1) 16 0) - BitVec.ofNat 48 (fld (h.cmd.op 0) 47 0)).toNat → h.cmd.id ∉ s.pipe.met →
    ∃ u ev, Ends (s.popHead q) u h.cmd { status := 4, cause := 30 } false ∧ ev.src = 25 ∧
      exec (.waitTimeout q) s0 = .next (u.contained h.cmd.dom ev [])

/-- WAIT: it holds its queue until its target, or faults at its TIMEOUT-th stoke. -/
def Obligations.WaitHoldsOrTimesOut : Prop :=
  Sys2Proof.Says.WaitHoldsUntilTarget ∧ Sys2Proof.Says.WaitTimesOut

/-- SIGNAL (R411): reserved bits of its operand word reject it; at the head of its queue, once no earlier command of the queue runs, it
adds INC to its counter modulo 2^48 (a counter outside its domain's blocks is counted instead) and completes; INC 0 changes no counter. -/
def Obligations.SignalAddsInOrder : Prop :=
  ∀ (q : Nat) (s0 : State) (h : QEnt), let s := s0.atHead q
    s.Serves q 0x02 h →
    let x := fld (h.cmd.op 0) 16 0
    let inc := fld (h.cmd.op 0) 63 32
    (fld (h.cmd.op 0) 31 17 ≠ 0 → s.dispatchCause h.cmd = 1) ∧
    ((∀ r ∈ s.runs, r.q ≠ q) →
      ∃ u t : State, exec (.signal q) s0 = .next t ∧ Ends (u.popHead q) t h.cmd {} false ∧
        (s.tallyOk h.cmd.dom x = true → u = s.signalTally x inc ∧ u.tally x = s.tally x + BitVec.ofNat 48 inc ∧
          (∀ y, y ≠ x → u.tally y = s.tally y) ∧ u = { s with pipe := { s.pipe with tally := u.pipe.tally, met := u.pipe.met } }) ∧
        (s.tallyOk h.cmd.dom x = false → u = s.bump cTallyWriteErr 1) ∧ (inc = 0 → ∀ y, u.tally y = s.tally y)) ∧
    ((∃ r ∈ s.runs, r.q = q) → exec (.signal q) s0 = .next s)

/-- PHASE leaves its code and tag for the next stoke; FRAME_MARK latches the frame number and MARK_ID, and with SIGNAL adds 1 to a counter:
with ALIGN 0 as the head that is served, with ALIGN 1 after SKIP + 1 stokes, also while its tile is closed (log entry 88, DESIGN CHOICE). -/
def Sys2Proof.Says.PhaseAndFrameMark : Prop :=
  ∀ (q : Nat) (s0 : State) (h : QEnt), let s := s0.atHead q
    (s.Serves q 0x03 h → ∃ t, exec (.phase q) s0 = .next t ∧
      Ends ((s.modDom h.cmd.dom (fun x => { x with phaseNext := some (fld (h.cmd.op 0) 1 0, fld (h.cmd.op 0) 31 16) })).popHead q) t h.cmd
        {} false) ∧
    (s.head q = some h → h.cmd.opcode = 0x04 →
      let due := if fbit (h.cmd.op 0) 16 then s.headLive q h.cmd && decide (fld (h.cmd.op 0) 23 17 < h.stokes) else s.headServed q h.cmd
      (due = false → exec (.frameMark q) s0 = .next s) ∧
      (due = true →
        ∃ u t, exec (.frameMark q) s0 = .next t ∧ Ends (u.popHead q) t h.cmd {} false ∧
          u.queue q = { s.queue q with markFrame := s.frameNo, markId := fld (h.cmd.op 0) 15 0 } ∧
          (∀ j, j ≠ q → u.queue j = s.queue j) ∧
          (∀ x, u.tally x = s.tally x +
            (if fbit (h.cmd.op 0) 24 = true ∧ s.tallyOk h.cmd.dom x = true ∧ x = fld (h.cmd.op 0) 48 32 then 1#48 else 0#48)) ∧
          SameRegs s u [cTallyWriteErr] ∧
          u = { s with regs := u.regs, pipe := { s.pipe with queues := u.pipe.queues, tally := u.pipe.tally, met := u.pipe.met } }))

/-- The commands of bound 0 that need no condition but their place: NOP, PHASE and FRAME_MARK. -/
def Obligations.NopPhaseAndFrameMark : Prop :=
  Sys2Proof.Says.NopCompletes ∧ Sys2Proof.Says.PhaseAndFrameMark

/-- A completion record (Table HR-8): its four words, for every command and outcome. -/
def Obligations.RecordWords : Prop :=
  ∀ (c : Cmd) (r : Res) (rep : Bool) (j len ftime frame : Nat),
    c.ring < 64 → r.status < 8 → r.cause < 64 → ftime < 2 ^ 23 → c.words.length = 8 →
    let ws := c.recWords r rep j len ftime frame
    let w (i : Nat) := ws.getD i 0#64
    ws.length = 4 ∧
    fld (w 0) 31 0 = c.tag ∧ fld (w 0) 47 32 = c.idx % 2 ^ 16 ∧ fld (w 0) 53 48 = c.ring ∧
    (fbit (w 0) 54 = true ↔ j / len % 2 = 0) ∧ fld (w 0) 63 56 = c.opcode ∧
    fld (w 1) 2 0 = r.status ∧ fld (w 1) 13 8 = (if r.status = 0 ∨ r.status = 2 then 0 else r.cause) ∧
    fld (w 1) 17 14 = r.flags.toNat ∧ fbit (w 1) 18 = r.aliased ∧ fbit (w 1) 19 = rep ∧
    fld (w 1) 63 32 = min r.dropped (2 ^ 32 - 1) ∧
    w 2 = (if r.status = 4 ∨ r.status = 5 then 0#64 else r.result) ∧
    fld (w 3) 22 0 = ftime ∧ fld (w 3) 62 23 = frame % 2 ^ 40

/-! ### Executions -/

/-- The rows that execute one instruction on a tile or DMA engine, with their opcodes (Table HR-5). -/
def Sys2Proof.Machine.engineRows : List ((Nat → Env → Instr) × Nat) :=
  [(.transfer, oTransfer), (.convert, oConvert), (.vclear, oVclear), (.hmul, oHmul), (.smul, oSmul), (.gather, oGather),
   (.scatter, oScatter), (.merge, oMerge), (.compact, oCompact), (.func, oFunc), (.route, oRoute)]

/-- A kept execution: its bytes land in memory together, the run has executed with the engine's flags, counts and result word, no
other run changes, and nothing but memory, runs, posts and a routing context has changed since the engine ended. A byte written reads as
written; a byte of the stacks or of a tile store that is not written and lies in no run of blocks to clear reads as before (beside poisoned
bytes the block or word is poisoned, R249, R252; errors of valid-map words and of crossings apart). That the bytes land together at the end
of the execution is the reading of log entry 4 (DEDUCED). -/
def Obligations.KeptExecutionLands : Prop :=
  ∀ row ∈ engineRows, ∀ (id : Nat) (e : Env) (s : State) (r : Run) (x : X),
    Executes s id row.2 e r x → x.run.cmd = r.cmd → x.Kept →
    ∃ t, exec (row.1 id e) s = .next t ∧
      t.mem = x.flush.s.mem ∧ t.host = x.flush.s.host ∧
      t.findRun id = (x.flush.s.findRun id).map (fun q =>
        { q with st := .executed, res := x.outcome, replayed := false, snap := x.run.snap, cont := x.run.cont }) ∧
      (∀ j, j ≠ id → t.findRun j = x.flush.s.findRun j) ∧
      t = { x.flush.s with pipe := { x.flush.s.pipe with runs := t.pipe.runs }, ctxs := t.ctxs } ∧
      (x.s.integ.errs = [] → Tab.wf bufReset x.buf = true →
        let good (a : Nat) := ∀ w ∈ x.bytes, w.1 / 256 = a / 256 → w.2.2 = false ∧ tries x.e (a / 256) = []
        let whole (k : Nat) := ∀ w ∈ x.bytes, 2 ^ 44 ≤ w.1 → (w.1 - 2 ^ 44) / 8 = k / 8 → w.2.2 = false
        let cleared (a : Nat) := ∃ c ∈ x.clears, c.1 ≤ a / 256 ∧ a / 256 < c.1 + c.2
        (∀ a v, a < stackEnd → (a, v, false) ∈ x.bytes → good a → ¬cleared a → t.dataByte a = v) ∧
        (∀ a, a < stackEnd → a ∉ x.bytes.map (·.1) → good a → ¬cleared a → t.dataByte a = x.s.dataByte a) ∧
        (∀ k v, (locTile k, v, false) ∈ x.bytes → whole k → (x.s.tileRead k).2 = false → t.tileRead k = (v, false)) ∧
        (∀ k, locTile k ∉ x.bytes.map (·.1) → whole k → t.tileRead k = x.s.tileRead k))

/-- An execution that stops: on its own operands with cause and STATUS 1 and nothing written, or (R129) with STATUS 3 and the elements that
it covers left unspecified; on an access that fails, which faults its job; on a poisoned block that it writes in part (R249, R251), with
STATUS 2 and result 0. The 32 words that such a block counts are log entry 24 (DEDUCED). -/
def Obligations.StoppedExecutions : Prop :=
  ∀ row ∈ engineRows, ∀ (id : Nat) (e : Env) (s : State) (r : Run) (x : X), Executes s id row.2 e r x →
    (∀ st, x.stop = some st → st.src = 0 → ∃ t, exec (row.1 id e) s = .next t ∧ t.mem = x.s.mem ∧
      t.findRun id = (x.s.findRun id).map (fun q => { q with st := .executed, res := { status := 1, cause := st.cause }, replayed := false })) ∧
    (x.stop = none → x.cause ≠ 0 → ∃ t, exec (row.1 id e) s = .next t ∧ t.mem = (x.s.discard x.run).mem ∧
      ∃ res, res.status = 3 ∧ res.cause = x.cause ∧ res.flags = ({} : Flags) ∧
        t.findRun id = ((x.s.discard x.run).findRun id).map (fun q => { q with st := .executed, res, replayed := false })) ∧
    (∀ st, x.stop = some st → st.src ≠ 0 → ∃ u ev, exec (row.1 id e) s = .next (u.contained r.cmd.dom ev [(id, st.cause)]) ∧
      ev.src = st.src ∧ ev.addr = st.addr ∧ u = (if st.src = 17 then x.s.bump (cXlateFault r.cmd.dom) 1 else x.s)) ∧
    (x.stop = none → x.cause = 0 → x.det = false → x.mergeReads.partialPoison ≠ [] →
      ∃ t, exec (row.1 id e) s = .next t ∧ t.mem = (x.mergeReads.s.discard x.run).mem ∧
        ∃ res, res.status = 2 ∧ res.result = 0#64 ∧ res.flags = ({} : Flags) ∧ 32 ≤ res.poison ∧
          t.findRun id = ((x.mergeReads.s.discard x.run).findRun id).map (fun q => { q with st := .executed, res, replayed := false }))

/-- A detection: the outputs and flags of the execution are discarded, what the Cocoon needs is retained, the run waits for its replay on
the tile reserved for it now, and its replay tokens are granted at once, or due at the next stoke. Which bytes are discarded is log entry 110 (DEDUCED), the replay of an
FD DMA engine, which has no tile, log entry 67 (DEDUCED). -/
def Obligations.DetectionStartsReplay : Prop :=
  ∀ row ∈ engineRows, ∀ (id : Nat) (e : Env) (s : State) (r : Run) (x : X),
    Executes s id row.2 e r x → x.stop = none → x.cause = 0 → x.det = true →
    let u := x.undo
    let phys := (r.unit.tile.map x.s.physOf).getD 0
    ∃ t, exec (row.1 id e) s = .next t ∧ t.mem = u.mem ∧
      (∀ q, u.findRun id = some q →
        ∃ q', t.findRun id = some q' ∧ q'.st = .detected ∧ q'.detects = 1 ∧ q'.replays = 0 ∧ q'.kept = x.run.kept ∧ q'.detTiles = [phys] ∧
          q'.replayTile = u.replayFor r [phys] ∧ q'.digest = x.digest ∧ q'.res = q.res) ∧
      t.frame.damper.granted + t.frame.damper.due = u.frame.damper.granted + u.frame.damper.due + r.cmd.tokens

/-- Twin mode (R373, R374): the instruction executes on the tile of its queue and on the odd tile beside it, and is kept only if both pass
and their digests agree. A tile that detects is charged; where both detect the tile of the queue alone is, which is the model's choice (log entry 135). Where only the digests differ the replay on a spare
decides, and where no tile is left to decide the job faults with source 18, unresolved. -/
def Obligations.TwinModeCompares : Prop :=
  ∀ (s : State) (r : Run) (e : Env) (k : Nat), r.unit.tile = some k → (s.upsets e).rb (rTwinCtl r.cmd.dom) 0 = true →
    let x0 := s.entering r e
    let x := x0.engine
    let y := ({ x0 with e := { e with faults := e.twinFaults } } : X).engine
    let x' : X := { x with s := (x.s.usedBy x0.run).bump cSeUnchecked ((y.s.reg cSeUnchecked).toNat - (x0.s.reg cSeUnchecked).toNat) }
    let even := x'.s.physOf k
    let odd := x'.s.physOf (k + 1)
    x.stop = none → x.cause = 0 →
    (x.det = false → y.det = false → x.digest = y.digest → s.runOnce r e = x'.keep false) ∧
    (x.det = true → s.runOnce r e = x'.detect even x.digest none) ∧
    (x.det = false → y.det = true → s.runOnce r e = x'.detect odd y.digest none) ∧
    (x.det = false → y.det = false → x.digest ≠ y.digest → x'.s.replayFor x0.run [even] ≠ none →
      s.runOnce r e = x'.detect even x.digest (some y.digest)) ∧
    (x.det = false → y.det = false → x.digest ≠ y.digest → x'.s.replayFor x0.run [even] = none →
      ∃ ev : Ev, ev.src = 18 ∧ s.runOnce r e = (x'.s.bump (cSeUnresolved x0.run.cmd.dom) 1).contained x0.run.cmd.dom ev [])

/-- VCLEAR: every byte of a range of blocks cleared reads as zero, and no byte outside it changes; so for the row `vclear` over the range of
its descriptor, through the pages of its snapshot, which lie on blocks and do not overlap: each byte of the range reads as zero afterwards, and
each block that the range does not reach keeps its valid bit and its bytes. -/
def Obligations.VclearZeroesItsRange : Prop :=
  (∀ (m : Mem) (b n : Nat), m.vpoison = [] →
    (∀ k, b ≤ k → k < b + n → (m.clearBlks b n).blkValid k = false) ∧
    (∀ k, k < b ∨ b + n ≤ k → (m.clearBlks b n).blkValid k = m.blkValid k ∧
      ∀ i, i < 256 → Tab.get byteReset (m.clearBlks b n).stack (256 * k + i) = Tab.get byteReset m.stack (256 * k + i)) ∧
    (∀ (s : State) (d : Nat), s.mem = m.clearBlks b n → 256 * b ≤ d → d < 256 * (b + n) → s.dataByte d = 0#8)) ∧
  (∀ (id : Nat) (e : Env) (s : State) (r : Run) (x : X), Executes s id oVclear e r x → x.Kept → x.s.integ.errs = [] →
    let d := dAt r.descs 0
    let hits (va : Nat) (p : Page) := d.base ≤ va ∧ va < d.base + d.n0 ∧ pageOf r.pages va = some p
    256 ∣ d.base → 256 ∣ d.n0 → r.pages.length ≤ 1024 →
    (∀ p ∈ r.pages, 256 ∣ p.va ∧ 256 ∣ p.addr ∧ 256 ∣ p.size ∧ ∀ va, p.va ≤ va → va < p.va + p.size → pageOf r.pages va = some p) →
    ∃ t, exec (.vclear id e) s = .next t ∧
      (∀ va p, hits va p → t.dataByte (p.addr + (va - p.va)) = 0#8) ∧
      (∀ k, (∀ va p, hits va p → (p.addr + (va - p.va)) / 256 ≠ k) →
        t.mem.blkValid k = x.s.mem.blkValid k ∧ ∀ i, i < 256 → t.dataByte (256 * k + i) = x.s.dataByte (256 * k + i)))

/-- An engine touches nothing but memory with its errors and the write-back queues of its words, the counters of what it meets, the records of Corrected events and the source of
free values: queues, runs, frames, domains, contexts, fabric and tiles stay as they are until the execution is kept. The pages of its
snapshot lie within the stacks, as every walk makes sure (R219). -/
def Obligations.EnginesTouchMemoryOnly : Prop :=
  ∀ x : X, (∀ p ∈ x.run.pages, p.host = true ∨ p.addr + p.size ≤ stackEnd) →
    let t := x.engine.s
    SameRegs x.s t engineRegs ∧
    (∃ rest : List Post, t.host = { x.s.host with posts := x.s.host.posts ++ rest } ∧ ∀ p ∈ rest, ∃ a ws, p = .fault a ws) ∧
    t.flt = { x.s.flt with seq := t.flt.seq, reported := t.flt.reported, folded := t.flt.folded } ∧
    (∀ r ∈ t.integ.errs, r.1 ∈ x.s.integ.errs.map (·.1)) ∧
    t = { x.s with regs := t.regs, mem := t.mem, free := t.free, flt := t.flt, host := t.host,
                   integ := { x.s.integ with errs := t.integ.errs, wbq := t.integ.wbq } } ∧
    x.engine.run.cmd = x.run.cmd

/-! ### What the engines compute -/

/-- ZA32 sums and products do not depend on the side of their operands, NaN causes and flags included. -/
def Sys2Proof.Says.SumsAndProductsCommute : Prop := ∀ a b : W32, addZ a b = addZ b a ∧ mulZ a b = mulZ b a

/-- A sum or product whose exact value is zero is 0x0000_0000, and none that rounds to zero is 0x8000_0000 (R69); a NaN among the results
is canonical, of cause 1 to 4, and raises NV; a NaN operand gives the lowest cause among the operands'. -/
def Sys2Proof.Says.ResultsAreCanonical : Prop :=
  ∀ a b : W32,
    (∀ r ∈ [addZ a b, mulZ a b], r.1 ≠ 0x80000000#32 ∧
      ((W32.ex r.1).isNan = true → r.1 ∈ [0x7FC00001#32, 0x7FC00002#32, 0x7FC00003#32, 0x7FC00004#32] ∧ r.2.nv = true)) ∧
    (∀ m1 e1 m2 e2, W32.ex a = .fin m1 e1 → W32.ex b = .fin m2 e2 →
      ((finAdd m1 e1 m2 e2).1 = 0 → (addZ a b).1 = 0#32) ∧ (m1 * m2 = 0 → (mulZ a b).1 = 0#32)) ∧
    (∀ i j, W32.ex a = .nan i → W32.ex b = .nan j → (addZ a b).1 = nan32 (min i j) ∧ (mulZ a b).1 = nan32 (min i j)) ∧
    (∀ i, W32.ex a = .nan i → (W32.ex b).isNan = false → (addZ a b).1 = nan32 i ∧ (mulZ a b).1 = nan32 i)

/-- ZA32 sums and products: commutative and canonical (R69). -/
def Obligations.SumsAndProducts : Prop :=
  Sys2Proof.Says.SumsAndProductsCommute ∧ Sys2Proof.Says.ResultsAreCanonical

/-- A zero written in a narrow vendor format is the all-zero pattern and a NaN 0x80 or 0x8000, whatever the sign and the value converted
(R66); every pattern converts into its own format as itself, exactly and without a flag, but the NaN raises NV. -/
def Obligations.NarrowFormatsRoundTrip : Prop :=
  ∀ t ∈ [ETy.zf8, .zg8, .zf16, .zg16], ∀ (ovf : Bool) (noise : Option Nat),
    (∀ v : Ex, let p := (convTo t ovf noise v).1
      p < 2 ^ t.bits ∧ (∀ e, t.val p = .fin 0 e → p = 0) ∧ (∀ e, v = .fin 0 e → p = 0) ∧
      ((t.val p).isNan = true → p = 2 ^ (t.bits - 1)) ∧ (v.isNan = true → p = 2 ^ (t.bits - 1))) ∧
    (∀ x, x < 2 ^ t.bits →
      (convTo t ovf noise (t.val x)).1 = x ∧ (convTo t ovf noise (t.val x)).2 = (if (t.val x).isNan then fNV else {}))

/-- The tree of a Hearth group (Table HE-5): a node of a level adds the node of its lower half to that of its upper half. -/
def Sys2Proof.Says.GroupTreeHalves : Prop :=
  ∀ (n : Nat) (l : List (W32 × Flags)), l.length = 2 ^ (n + 1) →
    (pairTree (n + 1) l).1 = (addZ (pairTree n (l.take (2 ^ n))).1 (pairTree n (l.drop (2 ^ n))).1).1

/-- TRANSFER of whole bytes between operands of one type (R89): it copies, element by element in ascending index, and afterwards every element
of the destination that lies in bounds reads as the pattern, and with the poison, that its source element had, fill included. The elements of
the destination lie in writable memory of the module, apart from each other and from those of the source; the source can be read. -/
def Sys2Proof.Says.TransferCopiesElements : Prop :=
  (∀ x : X, let s := dAt x.run.descs 0
    let d := dAt x.run.descs 1
    copies s d = true → d.space ≠ 3 → d.bscaled = false →
    let y := x.copyEls s d (List.range d.count)
    x.transfer = { y with result := BitVec.ofNat 64 (y.done % 2 ^ 48) }) ∧
  (∀ (x : X) (s d : Desc) (ls : List Nat),
    s.ty = d.ty → d.ty ≠ .bitmap → d.ty ≠ .int4 → s.esz = d.esz →
    x.stop = none → x.under = [] → x.e.faults = [] → x.s.integ.errs = [] → (∀ k, (x.s.mem.seeWord k).2.2 ≠ .bad) →
    (∀ p ∈ x.run.pages, p.write = true) → (∀ l ∈ ls, (x.pat s 1 l).1.stop = none) →
    (∀ l ∈ ls, none ∉ x.elLocs d l) → (ls.flatMap (x.elLocs d)).Nodup → (∀ a ∈ ls.flatMap (x.elLocs s), a ∉ ls.flatMap (x.elLocs d)) →
    let t := x.copyEls s d ls
    t.stop = none ∧ t.offered = x.offered + ls.length ∧
    ∀ l ∈ ls, d.at l ≠ none → (t.pat d 1 l).2 = ((x.pat s 1 l).2.1 % 2 ^ (8 * d.esz), (x.pat s 1 l).2.2))

/-- HMUL without errors of its arithmetic (R102): every output of a row that is neither masked nor poisoned is the fold, from what the output
accumulates onto, of the tree sums of its groups of 32 products of the row with the column of the weights; it is the element written there. With
ACC 0 it starts from +0, and a reduction in two parts, the first of whole groups, is that of the second part onto the first. -/
def Sys2Proof.Says.HmulAddsProductTrees : Prop :=
  (∀ x : X, x.under = [] → x.e.faults = [] →
    let y := dAt x.run.descs 2
    let q := if x.run.cmd.rate2 x.run.descs then 8 else 4
    let r := x.hmulWith []
    r.1.stop = none → y.ty ≠ .bitmap → y.ty ≠ .int4 →
    (∀ h ∈ r.2.1, h.skip = false → ∃ row, (h.m, row) ∈ r.2.2.1 ∧
      h.v = (foldSums h.old (groupSums q (List.zipWith mulEx row (r.2.2.2.map (fun k => k.getD h.n Ex.zero))))).1 ∧
      (x.run.cmd.acc = false → h.old = 0#32) ∧
      (∀ i, y.at (h.n + y.N0 * h.m) = some i → ∃ el ∈ r.1.els, el.pl = (y.place x.tile).1 ∧
        el.a = (y.place x.tile).2 + (y.byteOff i).1 ∧ el.v = h.v.toNat ∧ el.sz = y.esz))) ∧
  (∀ (v : W32) (q1 q2 : Nat) (ps1 ps2 : List (W32 × Flags)), ps1.length = 32 * q1 →
    (foldSums (foldSums v (groupSums q1 ps1)).1 (groupSums q2 ps2)).1 = (foldSums v (groupSums (q1 + q2) (ps1 ++ ps2))).1)

/-- What TRANSFER and HMUL compute. -/
def Obligations.EnginesComputeValues : Prop :=
  Sys2Proof.Says.GroupTreeHalves ∧ Sys2Proof.Says.TransferCopiesElements ∧ Sys2Proof.Says.HmulAddsProductTrees

/-- Capacity slots (R163): an expert never holds more than CAP tokens, no slot is given twice, no choice is served twice, and every
choice is served or dropped. -/
def Obligations.RouteKeepsCapacity : Prop :=
  ∀ (orders : List (Option (List Nat))) (E K C alts : Nat), (∀ o ∈ orders, ∀ l, o = some l → ∀ e ∈ l, e < E) →
    (∀ o ∈ orders, ∀ l, o = some l → K ≤ l.length) →
    let a := assignAll orders E K C alts
    (∀ p ∈ a.served, p.2.2.2.1 < C ∧ p.2.2.1 < E ∧ p.2.2.2.2 ≤ alts) ∧
    (a.served.map (fun p => (p.2.2.1, p.2.2.2.1))).Nodup ∧ (a.served.map (fun p => (p.1, p.2.1))).Nodup ∧
    a.served.length + a.dropped = orders.length * K

/-- MERGE's order (R153): ascending keys, every entry of both lists once, and among equal keys those of A first. -/
def Obligations.MergeOrdersKeys : Prop :=
  ∀ a b : List Nat, ascending a = true → ascending b = true →
    let m := mergeKeys (a.length + b.length + 1) a.zipIdx b.zipIdx
    ascending (m.map (·.1)) = true ∧
    (m.filter (fun p => !p.2.1)).map (fun p => (p.1, p.2.2)) = a.zipIdx ∧
    (m.filter (fun p => p.2.1)).map (fun p => (p.1, p.2.2)) = b.zipIdx ∧
    (∀ (i j : Nat) (p q : Nat × Bool × Nat), i < j → m[i]? = some p → m[j]? = some q → p.1 = q.1 → (p.2.1 = true → q.2.1 = true))

/-- The injectivity test (R204) is sound for LINEAR layout: two stored elements of a descriptor that passes never share an offset. -/
def Obligations.InjectiveDescriptors : Prop :=
  ∀ (d : Desc) (i j : Ix), d.layout = 0 → d.injective = true →
    i.i0 < d.sz 0 → i.i1 < d.sz 1 → i.i2 < d.sz 2 → i.i3 < d.sz 3 →
    j.i0 < d.sz 0 → j.i1 < d.sz 1 → j.i2 < d.sz 2 → j.i3 < d.sz 3 →
    d.linOff i = d.linOff j → i = j

/-- The symbol code (R238, Table DI-2): one wrong symbol of a codeword is corrected, at any of the 18 positions and of any value; a
marked die is reconstructed, and beside it any one wrong symbol is detected. -/
def Sys2Proof.Says.SymbolCodeGuarantees : Prop :=
  ∀ k v, k < 18 → 0 < v → v < 256 →
    let one := modAt (List.replicate 18 0) k (fun _ => v)
    rsDecode none one = .fix k v ∧
    rsDecode (some k) one = .erase v ∧
    (∀ f, f < 18 → f ≠ k → ∀ w, w < 256 → rsDecode (some f) (modAt one f (fun _ => w)) = .bad) ∧
    (∀ j w, j < 18 → j ≠ k → 0 < w → w < 256 → rsDecode none (modAt one j (fun _ => w)) ≠ .clean)

/-- The word code (R246): one or two wrong bits of the 80 are corrected, POISON and PARITY included, and three are detected; a correction
flips at most two bits and has the syndromes of the error. -/
def Sys2Proof.Says.WordCodeGuarantees : Prop :=
  (∀ i, i < 80 → bchDecode (2 ^ i) = .fixed (2 ^ i)) ∧
  (∀ i j, i < j → j < 80 → bchDecode (2 ^ i + 2 ^ j) = .fixed (2 ^ i + 2 ^ j)) ∧
  (∀ i j k, i < j → j < k → k < 80 → bchDecode (2 ^ i + 2 ^ j + 2 ^ k) = .bad) ∧
  (∀ e f, bchDecode e = .fixed f →
    bchSyn f = bchSyn e ∧ ((∃ i, i < 80 ∧ f = 2 ^ i) ∨ ∃ i j, i < 80 ∧ j < 80 ∧ i ≠ j ∧ f = 2 ^ i + 2 ^ j))

/-- The two error codes. -/
def Obligations.CodesCorrectAndDetect : Prop :=
  Sys2Proof.Says.SymbolCodeGuarantees ∧ Sys2Proof.Says.WordCodeGuarantees

/-! ### The step -/

/-- STEP_OPEN (R267): rejected with STEP (21) where a condition fails; else, with no rollback and no writing RUN, the step is open with
its number and mode, no block applied, and the command completes. In a domain that is not enabled it waits (R466). -/
def Sys2Proof.Says.StepOpens : Prop :=
  ∀ (q : Nat) (s0 : State) (h : QEnt), let s := s0.atHead q
    s.head q = some h → h.cmd.opcode = oStepOpen → s.flt.fatal = false →
    (h.cmd.needsLoad = true → h.loaded = true) →
    let d := h.cmd.dom
    (s.domOn d = false → exec (.stepOpen q) s0 = .next s) ∧
    (s.domOn d = true → s.stepOpenBad h.cmd = true →
      ∃ t : State, exec (.stepOpen q) s0 = .next t ∧ Ends (s.popHead q) t h.cmd { status := 1, cause := 21 } false) ∧
    (s.domOn d = true → s.stepOpenBad h.cmd = false → s.stepState d ≠ 4 → s.writingRun d = false →
      ∃ (u t : State), exec (.stepOpen q) s0 = .next t ∧ Ends (u.popHead q) t h.cmd {} false ∧
        u.stepState d = 1 ∧ u.rf (rStepNumber d) 31 0 = fld (h.cmd.op 0) 31 0 ∧
        (∃ st, (u.dom d).step = some st ∧ st.number = fld (h.cmd.op 0) 31 0 ∧ st.direct = fbit (h.cmd.op 0) 32 ∧ st.applied = [] ∧
          st.sealId = none ∧ st.journal = []) ∧
        (u.dom d).held = [] ∧ u.mem = s.mem ∧ u.pipe = s.pipe)

/-- STEP_SEAL (R270, R295): it latches the last schedule record and stands, in state UPDATE; without an open step, or beside another
seal, it is rejected with STEP (21). -/
def Sys2Proof.Says.StepSealStands : Prop :=
  ∀ (q : Nat) (s0 : State) (h : QEnt), let s := s0.atHead q
    s.head q = some h → h.cmd.opcode = oStepSeal → s.flt.fatal = false → s.domOn h.cmd.dom = true →
    let d := h.cmd.dom
    (∀ st, (s.dom d).step = some st → s.stepOpenB d = true → st.sealId = none →
      ∃ t : State, exec (.stepSeal q) s0 = .next t ∧ t.stepState d = 3 ∧
        (t.dom d).step = some { st with latched := st.sched, sealId := some h.cmd.id } ∧ (∀ j, j ≠ d → t.dom j = s.dom j) ∧
        SameRegs s t [rStepState d] ∧ t = { s with regs := t.regs, doms := t.doms }) ∧
    (((s.dom d).step = none ∨ ∃ st, (s.dom d).step = some st ∧ st.sealId ≠ some h.cmd.id ∧
        (s.stepOpenB d = false ∨ st.sealId.isSome = true)) →
      ∃ t : State, exec (.stepSeal q) s0 = .next t ∧ Ends (s.popHead q) t h.cmd { status := 1, cause := 21 } false)

/-- STEP_OPEN and STEP_SEAL. -/
def Obligations.StepOpensAndSeals : Prop :=
  Sys2Proof.Says.StepOpens ∧ Sys2Proof.Says.StepSealStands

/-- The seal stoke of a ready step without poison (Table TS-6): it becomes the last sealed step, its STEP_SEAL completes with result
code 0 and the count of applied blocks, and the domain is IDLE. The late windows of its domain that this seal ends close (R357): those of an
older step, and its own where LATE_SLOTS is 0; a window's missing leaves count as unarrived, its held slots are cleared, and where none closes
memory is as it was. -/
def Obligations.SealStokeEndsStep : Prop :=
  ∀ (s : State) (d : Nat) (st : StepSt), d < 256 → s.flt.fatal = false → (s.dom d).step = some st →
    s.stepState d = 3 → st.ready = true → st.poison = none → st.abandoned = false → st.number < 2 ^ 32 →
    (∀ w ∈ s.fab.lates, ∀ p ∈ w.pages, p.host = true ∨ p.addr + p.size ≤ stackEnd) →
    let ends (w : LateWin) := w.dom == d && (w.step != st.number || w.lateSlots == 0)
    let t := s.sealDomain d
    t.stepState d = 0 ∧ t.rf (rStepLastSealed d) 31 0 = st.number ∧ (t.dom d).step = none ∧
    t.fab.lates = s.fab.lates.filter (fun w => !ends w) ∧ (s.fab.lates.filter ends = [] → t.mem = s.mem) ∧
    t.mem = ((s.eachCtx d State.liveBiases).closeLate d (fun w => w.step != st.number || w.lateSlots == 0)).mem ∧
    (∀ w i, s.fab.lates.filter ends = [w] → s.cledIx d w.step = some i →
      (t.reg (rCledger d i 7)).toNat = ((s.reg (rCledger d i 7)).toNat + w.absent.length) % 2 ^ 48) ∧
    (∀ q h, q < 160 → s.head q = some h → st.sealId = some h.cmd.id →
      (∀ j g, j < 160 → s.head j = some g → g.cmd.id = h.cmd.id → j = q) →
      ∃ u : State, Ends (u.popHead q) t h.cmd { flags := st.flags, result := st.result 0 st.applied.length } false ∧ u.pipe = s.pipe)

/-- SCHEDULE (R295): the record whose slot 0 is the open step's number is kept; any other is rejected with STEP (21). -/
def Sys2Proof.Says.ScheduleIsKept : Prop :=
  ∀ (q : Nat) (s0 : State) (h : QEnt), let s := (s0.seeHead q).useFd [.updater]
    s.head q = some h → h.cmd.opcode = oUpdate → h.cmd.form = 0 → h.loaded = true → s.flt.fatal = false → s.domOn h.cmd.dom = true →
    let d := h.cmd.dom
    let x := (s.ownX { cmd := h.cmd, q, unit := .updater, descs := h.descs, pages := h.pages } none).schedRec
    let u := x.1.crossed
    (s.stepState d ≠ 1 → s.stepState d ≠ 2 →
      ∃ t : State, exec (.updateSchedule q) s0 = .next t ∧ Ends (s.popHead q) t h.cmd { status := 1, cause := 21 } false) ∧
    (s.stepState d = 1 ∨ s.stepState d = 2 → x.1.stop = none → x.2.2 = false →
      (x.2.1.getD 0 0 = u.rf (rStepNumber d) 31 0 →
        ∃ t : State, exec (.updateSchedule q) s0 = .next t ∧
          Ends ((u.modStep d (fun st => { st with sched := some (x.2.1.map (BitVec.ofNat 32)) })).popHead q) t h.cmd {} false) ∧
      (x.2.1.getD 0 0 ≠ u.rf (rStepNumber d) 31 0 →
        ∃ t : State, exec (.updateSchedule q) s0 = .next t ∧ Ends (u.popHead q) t h.cmd { status := 1, cause := 21 } false))

/-- UPDATE_RUN (R303, R313, R376): while the Grate units still hold what came before it, it waits in the FIFOs of its stacks (R234); once
they serve it, a RUN that is kept lands its writes together and has executed with their flags and result word; a stack left without a pair
for it faults the job (source 27). How a RUN takes its place in the FIFOs is log entry 92 (DESIGN CHOICE). -/
def Sys2Proof.Says.UpdateRunLands : Prop :=
  ∀ (id : Nat) (e : Env) (s0 : State) (r0 : Run), s0.findRun id = some r0 → r0.cmd.opcode = oUpdate → r0.st = .admitted →
    s0.flt.fatal = false →
    let s1 := ((s0.seeSram (.queue id)).seeSram (.update r0.cmd.dom)).useFd [.updater]
    ∀ r : Run, s1.findRun id = some r → r.cmd.id = id → r.cmd.opcode = oUpdate →
    let ks := s1.runStacks r.cmd
    let served := ks.all (fun k => (s1.fifo k).isEmpty || s1.serves1 (.job id) k)
    let s := s1.unask (.job id)
    let p := (s.upsets e).runPairs r.cmd e
    let x := ({ s := p.1, e, run := r, tile := none } : X).updateRun
    (served = false → exec (.updateRun id e) s0 = .next (s1.askAll (.job id) ks)) ∧
    (served = true → s.fdResidue r e = none → p.2 = true → x.Kept → x.run.cmd = r.cmd →
      ∃ t : State, exec (.updateRun id e) s0 = .next t ∧ t.mem = x.flush.s.mem ∧
        t.findRun id = (x.flush.s.findRun id).map (fun q =>
          { q with st := .executed, res := x.outcome, replayed := false, snap := x.run.snap, cont := x.run.cont }) ∧
        t = { x.flush.s with pipe := { x.flush.s.pipe with runs := t.pipe.runs } }) ∧
    (served = true → s.fdResidue r e = none → p.2 = false →
      ∃ ev : Ev, ev.src = 27 ∧ exec (.updateRun id e) s0 = .next (p.1.contained r.cmd.dom ev [(id, 0)]))

/-- UPDATE: its forms SCHEDULE and RUN. -/
def Obligations.UpdateCommandsAct : Prop :=
  Sys2Proof.Says.ScheduleIsKept ∧ Sys2Proof.Says.UpdateRunLands

/-- COMBINE (R172, R173, R177): a header that does not agree rejects it; a batch without rows ends at once, whatever its lists hold; while
rows are missing that can still come it keeps the blocks that have come and goes on; once every assigned row has come, the rows taken
land together in Y, and the run has executed with the counts as its result; when nothing more can come it stops with BLOCKED (13) and its
context's epoch advances. A header or list that reads poisoned ends it with its outputs poisoned (Table DI-4); what it reads from receive
streams comes first (R359). The causes of a header are those of log entry 112, what a poisoned batch leaves that of log entry 68, and that the
word of a COMBINE that stops BLOCKED counts no stale block of its own epoch advance log entry 120 (DEDUCED all). -/
def Obligations.CombineAddsItsRows : Prop :=
  ∀ (id : Nat) (e : Env) (s0 : State) (r0 : Run), s0.findRun id = some r0 → r0.cmd.opcode = oCombine → r0.st = .admitted →
    s0.flt.fatal = false →
    let s := r0.streams.foldl (fun s n => s.takeStream id n) ((s0.seeSram (.queue id)).seeSram (.context r0.cmd.ctxNo))
    ∀ r : Run, s.findRun id = some r → r.cmd.id = id → r.cmd.opcode = oCombine →
    (r.streams.any (fun n => r.wants n != 0) = true → exec (.combine id e) s0 = .next s) ∧
    (r.streams.any (fun n => r.wants n != 0) = false → s.schedResidue r e = none →
    let s1 := s.upsets e
    let m := ({ s := s1, e, run := r, tile := r.unit.tile } : X).combineSet.2
    let stale := (s1.ctx r.cmd.ctxNo).stale - r.snap.getD 0 0
    let bad := s1.combineHeader r m
    (m.hbad = true → exec (.combine id e) s0 = .next (s1.runOnce r {})) ∧
    (m.hbad = false → r.setUp = false → bad ≠ 0 →
      exec (.combine id e) s0 = .next (s1.executed id { status := 1, cause := bad, result := cmbWord 0 0 stale } false)) ∧
    (m.hbad = false → r.setUp = true ∨ bad = 0 → m.assigned = 0 →
      exec (.combine id e) s0 = .next (s1.executed id { result := cmbWord 0 0 stale, aliased := r.aliased } false)) ∧
    (m.hbad = false → r.setUp = true ∨ bad = 0 → 0 < m.assigned → m.bad = true → exec (.combine id e) s0 = .next (s1.runOnce r {})) ∧
    (m.hbad = false → r.setUp = true ∨ bad = 0 → 0 < m.assigned → m.bad = false →
      let k := s1.combineTakes r m e
      let x := (k.1.combineX k.2.1 e).engine
      let q := k.1.ctx r.cmd.ctxNo
      (k.2.2.ended m = false → q.credits ≠ 0 ∨ q.held ≠ [] ∨ q.inflight ≠ [] → exec (.combine id e) s0 = .next k.1) ∧
      (k.2.2.ended m = false → q.credits = 0 → q.held = [] → q.inflight = [] →
        exec (.combine id e) s0 = .next (((k.1.discard k.2.1).executed id
          { status := 3, cause := 13, aliased := r.aliased, result := cmbWord k.2.2.done.length k.2.1.blocks.length stale } false).advanceEpoch r.cmd.ctxNo)) ∧
      (k.2.2.ended m = true → x.Kept → x.run.cmd = r.cmd → k.2.1.unit.tile = none ∨ k.1.rb (rTwinCtl r.cmd.dom) 0 = false →
        ∃ t : State, exec (.combine id e) s0 = .next t ∧ t.mem = x.flush.s.mem ∧
          t.findRun id = (x.flush.s.findRun id).map (fun v =>
            { v with st := .executed, res := x.outcome, replayed := false, snap := x.run.snap, cont := x.run.cont }))))

/-- The order of a COMBINE in rank order (R175): before a row of rank j, every served choice of its token of a lower rank has been added. -/
def Obligations.CombineOrder : Prop :=
  ∀ (m : CmbSet) (c : Cmd) (y : Desc) (blocks : List (Ans × List Byte × Bool)), fbit (c.op 1) 6 = true →
    ∀ (i : Nat) (r : CRow), (m.progress c y blocks).done[i]? = some r →
      ∀ j, j < r.j → bit (m.tmap.getD (r.t * bits m.h 43 40 + j) 0) 56 = true →
        ∃ i' r', i' < i ∧ (m.progress c y blocks).done[i']? = some r' ∧ r'.t = r.t ∧ r'.j = j

/-! ### Collectives -/

/-- The rows that set up a collective, with their opcodes. -/
def Sys2Proof.Machine.collRows : List ((Nat → Env → Instr) × Nat) :=
  [(.reduceScatter, oReduceScatter), (.allGather, oAllGather), (.allReduce, oAllReduce), (.broadcast, oBroadcast)]

/-- A collective of two or more members stands after its set-up (R347), with its sequence number and members, unless a WINDOW kept for it
contradicts it (R335): a reduction while blocks of its own shard are open; a gather, or the root of a broadcast, once its own part is in
its destination; a receiver. What is kept for a collective to come is log entry 43 (DEDUCED). -/
def Obligations.CollectivesStand : Prop :=
  ∀ row ∈ collRows, ∀ (id : Nat) (e : Env) (s0 : State) (r0 : Run), s0.findRun id = some r0 → r0.cmd.opcode = row.2 →
    r0.st = .admitted → s0.flt.fatal = false →
    let s := (s0.seeSram (.queue id)).useFd [.netif]
    ∀ r : Run, s.findRun id = some r → r.cmd.id = id → r.cmd.opcode = row.2 → s.findColl id = none → s.fdResidue r e = none →
    let c := (s.upsets e).collOf r e
    let v := s.stood r e
    2 ≤ c.members.length → (v.findColl id).isSome = true →
    let stands (t : State) : Prop :=
      exec (row.1 id e) s0 = .next t ∧ (t.findRun id).map (·.st) = some .standing ∧
      ∃ c', t.findColl id = some c' ∧ c'.op = c.op ∧ c'.group = c.group ∧ c'.seq = r.snap.getD 0 0 ∧ c'.members = s.groupMembers r.cmd.group
    (opReduces c.op = true → 0 < shardBlocks c.n c.q c.rank → ∃ t : State, stands t ∧ t.mem = v.mem) ∧
    (c.op = oAllGather ∨ (c.op = oBroadcast ∧ c.rank = c.root ∧ c.toStream = false) →
      let x := (v.collX { r with st := .standing }).copyOwn c
      x.stop = none → x.mergeReads.partialPoison = [] → 0 < c.ownUnits (dAt r.descs 0) (dAt r.descs 1) → ∃ t : State, stands t ∧ t.mem = x.flush.s.mem) ∧
    (c.op = oBroadcast → c.rank ≠ c.root → c.toStream = false → 0 < c.units (dAt r.descs 1) → ∃ t : State, stands t ∧ t.mem = v.mem)

/-- COLLECTIVE_BURST (R347): 3 link tokens for at most 256 flits of the collective; every packet is its own, to another member whose route
is the burst's port. -/
def Sys2Proof.Says.BurstsTakeThreeTokens : Prop :=
  ∀ (id port : Nat) (e : Env) (s0 : State) (c : Coll) (r : Run), let s := s0.useFd [.damper, .netif]
    s.findColl id = some c → s.findRun id = some r → s.flt.fatal = false →
    s.inGuard = false → s.frame.damper.grants .link 3 = true →
    let s1 := (s.upsets e).crossings e
    let ranks := (List.range c.members.length).filter (fun k => k != c.rank && s1.portFor (c.proto k) == some port)
    let b := Burst.fill s1 ranks 1280 { x := s1.collX r, c }
    b.flits ≤ 256 ∧
    (∀ k ∈ b.pkts, c.owns k = true ∧ ∃ j ∈ ranks, k.dst = c.members.getD j 0) ∧
    (b.pkts ≠ [] → b.x.stop = none → b.x.mergeReads.partialPoison = [] →
      ∃ t : State, exec (.collectiveBurst id port e) s0 = .next t ∧ t.frame.damper = s.frame.damper.take .link 3 ∧
        ∀ c', t.findColl id = some c' → c'.next = b.c.next ∧ c'.gnext = b.c.gnext)

/-- REDUCTION_DEADLINE (R354): the open blocks of the shard (those below the limit granted) close with the leaves present, and the ranks
whose leaf one of them lacks are late from then on; no block stays open that lacks leaves of late ranks only. Which
blocks count as open then is log entry 46 (DEDUCED). -/
def Sys2Proof.Says.DeadlineClosesBlocks : Prop :=
  ∀ (id : Nat) (s0 : State) (c : Coll) (r : Run), let s := s0.useFd [.netif]
    s0.findColl id = some c → s.findColl id = some c → s.findRun id = some r → r.cmd.dom = c.dom →
    s.faulted c.dom = false → c.mism = [] → c.isStep = true → c.expired = false → c.deadline ≤ s.frameNo → s.flt.fatal = false →
    ∃ t : State, exec (.reductionDeadline id) s0 = .next t ∧
      ∀ c', t.findColl id = some c' → c'.expired = true ∧
        (∀ b, b < shardBlocks c.n c.q c.rank → (b < c.granted → b ∈ c'.closed) ∧ (b ∉ c'.closed → c'.closable b = false)) ∧
        ∀ k, k ∈ c'.late ↔ k < c.members.length ∧ k ≠ c.rank ∧ ∃ b, b < shardBlocks c.n c.q c.rank ∧ b < c.granted ∧ b ∉ c.closed ∧
          Tab.get (fun _ => none) c.leaves (1024 * b + k) = none

/-- What stands of a collective acts by itself: its bursts, its deadline. -/
def Obligations.BurstsAndDeadlines : Prop :=
  Sys2Proof.Says.BurstsTakeThreeTokens ∧ Sys2Proof.Says.DeadlineClosesBlocks

/-! ### The path of a command -/

/-- RING_DISPATCH (R398), for a ring that runs: set-up locked, enabled, RUNNING, its job not FAULTED (R401, R466): a poisoned entry faults the job (source 28, log entry 58); an entry that fails a check completes with the
first failing check's cause; another enters the queue that it names, with the next number. The control words that the fetch engine uses are
decoded first. -/
def Obligations.RingsDispatch : Prop :=
  ∀ (r : Nat) (s0 : State) (ws : List W64) (ep : Bool) (rest : List (List W64 × Bool)), let s := s0.seeSram .module
    (s.ring r).buf = (ws, ep) :: rest →
    s.ringRuns r = true → s.freeSlots (s.ringCpl r) ≠ 0 → s.cplState (s.ringCpl r) ≠ 2 →
    let g := s.ring r
    let c : Cmd := ⟨s.pipe.nextId, r, g.ci, s.ringDom r, s.ringCpl r, (ws ++ List.replicate 8 0#64).take 8⟩
    let u := { s.setRing r { g with ci := (g.ci + 1) % 2 ^ 32, buf := rest } with
      pipe := { (s.setRing r { g with ci := (g.ci + 1) % 2 ^ 32, buf := rest }).pipe with nextId := s.pipe.nextId + 1 } }
    (ep = true → ∃ ev : Ev, ev.src = 28 ∧ exec (.ringDispatch r) s0 = .next (s.contained c.dom ev [])) ∧
    (ep = false → s.dispatchCause c ≠ 0 →
      ∃ t : State, exec (.ringDispatch r) s0 = .next (t.fetchRing r) ∧ Ends u t c { status := 1, cause := s.dispatchCause c } false) ∧
    (ep = false → s.dispatchCause c = 0 → (s.queue c.target).ents.length + b2n (s.smulHolds c.target) < 256 →
      ∃ t : State, exec (.ringDispatch r) s0 = .next t ∧ t.queue c.target = { s.queue c.target with ents := (s.queue c.target).ents ++ [{ cmd := c }] } ∧
        (∀ j, j ≠ c.target → t.queue j = s.queue j) ∧ t.pipe.runs = s.pipe.runs ∧ t.pipe.nextId = s.pipe.nextId + 1 ∧
        (t.ring r).ci = (g.ci + 1) % 2 ^ 32 ∧ (t.ring r).buf = rest ∧ t.mem = s.mem ∧ t.regs = s.regs)

/-- DESCRIPTOR_LOAD (R184, R209): a missing operand (a handle beyond the table or absent, or the root of a BROADCAST without a source), or
the first check of Table TD-5 that fails, ends the command; where all pass it holds its descriptors, its translation snapshot and, from a
ring, the DMA engine that loads it. While no engine is free the head of a ring waits (R393). -/
def Obligations.LoadsOrRejects : Prop :=
  ∀ (q : Nat) (e : Env) (s0 : State) (h : QEnt), let s := (s0.seeHead q).seeSram .module
    s.head q = some h → h.loaded = false → h.cmd.needsLoad = true → s.headServed q h.cmd = true →
    (s.noEngine q h.cmd = true → exec (.descriptorLoad q e) s0 = .next s) ∧
    (s.noEngine q h.cmd = false →
    let c := h.cmd
    let s1 := s.upsets e
    let self : Option Nat := if isTileQ q then some q else none
    let len := s.rf (rDescTblLen c.dom) 15 0
    (s1.lacks c = true ↔ c.hands.any (fun k => !(k.opt && k.h == 65535) && (k.h == 65535 || decide (len ≤ k.h))) = true ∨
      (c.opcode = oBroadcast ∧ s.rb (rCgroupCtl c.group) 24 = true ∧ (s.groupMembers c.group).idxOf s.member = c.root ∧
        fld (c.op 0) 15 0 = 65535)) ∧
    (s1.lacks c = true → ∃ t : State, exec (.descriptorLoad q e) s0 = .next t ∧ Ends (s1.popHead q) t c { status := 1, cause := 14 } false) ∧
    (s1.lacks c = false → ∀ s2 ds, s1.readDescs e c.dom c.hands = (s2, .ok ds) →
      let ck := s2.checksOf c ds self
      let os := ((c.hands.zip ds).zip ck.roles).filterMap (fun t => t.1.2.map (fun d => ({ role := t.2, dir := t.1.1.dir, d } : Opd)))
      (s2.descCause c ck os self ≠ 0 →
        ∃ t : State, exec (.descriptorLoad q e) s0 = .next t ∧ Ends (s2.popHead q) t c { status := 1, cause := s2.descCause c ck os self } false) ∧
      (s2.descCause c ck os self = 0 →
        ∀ s3 ps, s2.walkAll e c.dom (c.opcode == oTransfer) 1024 (os.flatMap (fun o => o.d.vranges)) [] = (s3, .ok ps) →
        let r : Run := { cmd := c, q, unit := s3.headUnit q c, descs := ds, pages := ps }
        (ownCause ck os ≠ 0 →
          ∃ t : State, exec (.descriptorLoad q e) s0 = .next t ∧ Ends (s3.popHead q) t c { status := 1, cause := ownCause ck os } false) ∧
        (ownCause ck os = 0 → ck.atOnce = true → c.opcode ≠ oStepOpen →
          ∃ t : State, exec (.descriptorLoad q e) s0 = .next t ∧ Ends (s3.popHead q) t c { aliased := c.aliased ds } false) ∧
        (ownCause ck os = 0 → ck.atOnce = false → c.opcode ≠ oStepOpen → c.bound ≠ 0 → ∀ x, s3.dataChecks e r = (x, 0) → x.stop = none →
          ∃ t : State, exec (.descriptorLoad q e) s0 = .next t ∧ t.head q = some { h with loaded := true, descs := ds, pages := ps, eng := match s.headUnit q c with | .fdma n => some n | _ => none } ∧
            (t.queue q).ents.drop 1 = (s.queue q).ents.drop 1 ∧ t.pipe.runs = s.pipe.runs))))

/-- The admission test (R36, R40): work that can never fit is rejected with a fault of its job (source 19); work that does not fit the
frame, or whose tokens the Damper does not grant, is deferred, counted once a frame; other work runs on its unit with its tokens granted,
once no request that comes before its own (R48) is open. Nothing is tested in the guard interval (R37). Corners are log entries 61 (DEDUCED)
and 89 (DESIGN CHOICE). -/
def Obligations.AdmissionTest : Prop :=
  ∀ (q : Nat) (s0 : State) (h : QEnt) (u : Unit'), let s := s0.seeAdmit q
    s.head q = some h → h.cmd.boundZero = false → s.headServed q h.cmd = true →
    (h.cmd.needsLoad = true → h.loaded = true) → s.headWaits h = false → s.unitFor q h.cmd = some u →
    let c := h.cmd
    let cls : Cls := if c.opcode = oUpdate then .grate else .general
    let deferred (t : State) (cnt : Nat) (seen : Bool) : Prop :=
      exec (.instructionAdmit q) s0 = .next t ∧ t.runs = s.runs ∧ (t.queue q).ents.map (·.cmd) = (s.queue q).ents.map (·.cmd) ∧
      t.mem = s.mem ∧ t.frame = s.frame ∧ t.reg cnt = (if seen then s.reg cnt else (s.bump cnt 1).reg cnt) ∧ SameRegs s t [cnt]
    (s.inGuard = true → exec (.instructionAdmit q) s0 = .next s) ∧
    (s.inGuard = false → s.neverFits u c = true → ∃ (v : State) (ev : Ev), Ends (s.popHead q) v c { status := 1 } false ∧ ev.src = 19 ∧
      exec (.instructionAdmit q) s0 = .next (v.contained c.dom ev [])) ∧
    (s.inGuard = false → s.neverFits u c = false → s.fitsTime u c = false → ∃ t : State, deferred t cDeferTime h.deferT) ∧
    (s.inGuard = false → s.neverFits u c = false → s.fitsTime u c = true → s.frame.damper.grants cls (s.tokensOf u c) = false →
      ∃ t : State, deferred t cDeferPower h.deferP) ∧
    (s.inGuard = false → s.neverFits u c = false → s.fitsTime u c = true → s.frame.damper.grants cls (s.tokensOf u c) = true →
      s.tokensOf u c = 0 ∨ (s.latchReady q h).outranked q c = false →
      ∃ (t : State) (run : Run), exec (.instructionAdmit q) s0 = .next t ∧ t.runs = s.runs ++ [run] ∧ run.cmd = c ∧ run.unit = u ∧ run.st = .admitted ∧
        run.descs = h.descs ∧ run.pages = h.pages ∧ run.tokens = s.tokensOf u c ∧ run.frame = s.frameNo ∧ run.ftime = s.ftime ∧
        t.queue q = { s.queue q with ents := (s.queue q).ents.drop 1 } ∧ t.frame.damper = s.frame.damper.take cls (s.tokensOf u c))

/-- COMMAND_COMPLETE (R405, R81, R137, R251): the run is gone, its flags join those of its tile, and it completes; one that read poison
faults its job after its record (source 16); an SMUL with rows left returns to the head of its queue without a record. -/
def Obligations.CompletionReports : Prop :=
  ∀ (id : Nat) (s0 : State) (r : Run), let s := s0.useFd [.scheduler]
    s.findRun id = some r → r.cmd.id = id → r.st = .executed → s.flt.fatal = false →
    r.cmd.dom < 256 → (∀ k, r.unit.tile = some k → k < 96) →
    let over' (u v : State) : Prop :=
      Ends u v r.cmd r.outcome r.replayed ∧ u.findRun id = none ∧ u.mem = s.mem ∧ u.host = s.host ∧
      (∀ k, r.unit.tile = some k → u.rf (rTileFlags k) 3 0 = s.rf (rTileFlags k) 3 0 ||| r.outcome.flags.toNat)
    (r.unfinished = true → ∃ t : State, exec (.commandComplete id) s0 = .next t ∧ t.host = s.host ∧ t.mem = s.mem ∧ t.findRun id = none ∧
      (t.queue r.q).ents =
        { cmd := r.cmd, loaded := true, descs := r.descs, pages := r.pages, cont := r.cont, deferT := (r.frame == s.frameNo) && r.deferT, deferP := (r.frame == s.frameNo) && r.deferP } :: (s.queue r.q).ents) ∧
    (r.unfinished = false → r.outcome.status ≠ 2 → ∃ u t : State, exec (.commandComplete id) s0 = .next t ∧ over' u t) ∧
    (r.unfinished = false → r.outcome.status = 2 → ∃ (u v t : State) (ev : Ev), exec (.commandComplete id) s0 = .next t ∧ over' u v ∧ ev.src = 16 ∧
      t = (v.bump (cPoisonRead r.cmd.dom) r.outcome.poison).contained r.cmd.dom ev [])

/-- REPLAY of a detection (Table SE-2): on the SPARE tile that the detection reserved, else on the tile itself; what passes is kept as a
replay and the event goes to the tile that detected (to its checkers where the replay's digest is the same); what detects again on a spare
runs once more, on the tile itself it is unresolved; the second replay is the last. After digests that differ the tile whose digest the replay
does not confirm is charged (R374). With no tile to run on it is unresolved (log entry 126, DEDUCED); a copy lost in the Cocoon faults the job
(source 28); that of a VCLEAR waits its turn in the FIFOs of its stacks (R234). Where a replay runs is read as log entry 67 (DEDUCED) says. -/
def Sys2Proof.Says.ReplaysKeepOrRepeat : Prop :=
  (∀ (id : Nat) (e : Env) (s0 : State) (r0 : Run), s0.findRun id = some r0 → r0.st = .detected → s0.flt.fatal = false →
    let s := (s0.seeSram (.queue id)).seeSram (.cocoon id)
    ∀ r : Run, s.findRun id = some r →
    let a := r.detTiles.headD 0
    let b := r.replayOn
    let clears := r.cmd.opcode = oVclear
    let front := ¬clears ∨ r.clearStacks.all (fun k => (s.fifo k).isEmpty || s.serves1 (.job r.cmd.id) k) = true
    let w := if clears then s.unask (.job r.cmd.id) else s
    let good := r.badCocoon = false ∧ r.st = .detected ∧ front ∧ Env.strikes e 7 < 2
    let x := (w.upsets e).replayX r b e
    (r.badCocoon = true → ∃ ev : Ev, ev.src = 28 ∧ exec (.replay id e) s0 = .next (s.contained r.cmd.dom ev [])) ∧
    (r.badCocoon = false → ¬front → exec (.replay id e) s0 = .next (s.askAll (.job r.cmd.id) r.clearStacks)) ∧
    (good → w.noReplay r = true → exec (.replay id e) s0 = .next ((w.upsets e).unresolved r)) ∧
    (good → w.noReplay r = false → r.twinDiffer = true →
      (x.det = true ∨ (x.digest ≠ r.digest ∧ x.digest ≠ r.digestTwin) → exec (.replay id e) s0 = .next (x.s.unresolved r)) ∧
      (x.det = false → x.digest = r.digest →
        exec (.replay id e) s0 = .next ((x.keepReplay false).tileEvent (w.physOf ((r.unit.tile.getD 0) + 1)) 0 b)) ∧
      (x.det = false → x.digest ≠ r.digest → x.digest = r.digestTwin →
        exec (.replay id e) s0 = .next ((x.keepReplay false).tileEvent a 0 b))) ∧
    (good → w.noReplay r = false → r.twinDiffer = false → r.replays = 0 → r.replayTile = none →
      (x.det = false → exec (.replay id e) s0 = .next (x.keepReplay true)) ∧
      (x.det = true → exec (.replay id e) s0 = .next (x.s.unresolved r))) ∧
    (good → w.noReplay r = false → r.twinDiffer = false → r.replays = 0 → r.replayTile = some b →
      (x.det = false → exec (.replay id e) s0 = .next ((x.keepReplay false).tileEvent a (if x.digest = r.digest then 1 else 0) b)) ∧
      (x.det = true → ∃ (t : State) (q : Run), exec (.replay id e) s0 = .next t ∧ t.findRun id = some q ∧ q.st = .detected ∧ q.replays = 1 ∧
        q.detects = 2 ∧ q.detTiles = [a, b])) ∧
    (good → w.noReplay r = false → r.twinDiffer = false → r.replays ≠ 0 →
      (x.det = true → exec (.replay id e) s0 = .next (x.s.unresolved r)) ∧
      (x.det = false → exec (.replay id e) s0 =
        .next (r.detTiles.foldl (fun s t => if t = b then s else s.tileEvent t 0 b) (x.keepReplay false))))) ∧
  (∀ (x : X) (self : Bool), x.Kept →
    (x.keepReplay self).mem = x.flush.s.mem ∧
    (x.keepReplay self).findRun x.run.cmd.id = (x.flush.s.findRun x.run.cmd.id).map (fun q =>
      { q with st := .executed, res := x.outcome, replayed := true, snap := x.run.snap, cont := x.run.cont }))

/-- SPARE_SWAP_DONE (R378): the logical tile maps to the spare, which is ACTIVE for it; a tile that left for a test is in TEST. -/
def Sys2Proof.Says.SwapsRemapTiles : Prop :=
  ∀ (die tile : Nat) (s : State) (w : Nat × Nat × Nat × Bool), die < 2 → tile < 48 →
    s.tiles.swaps.find? (fun w => w.1 == 48 * die + tile) = some w → w.2.1 < 104 → w.2.2.1 < 104 → w.2.1 ≠ w.2.2.1 →
    ∃ t : State, exec (.spareSwapDone die tile) s = .next t ∧ t.rf (rTileMap (48 * die + tile)) 5 0 = w.2.2.1 % 52 ∧
      t.tileState w.2.2.1 = 0 ∧ t.rf (rTileHealth w.2.2.1) 7 2 = tile ∧ t.tiles.swaps = s.tiles.swaps.erase w ∧ t.mem = s.mem ∧
      (w.2.2.2 = true → t.tileState w.2.1 = 2 ∧ t.tiles.testing = s.tiles.testing ++ [(w.2.1, 0, false)])

/-- Replays, and swaps of tiles. -/
def Obligations.ReplaysAndSwaps : Prop :=
  Sys2Proof.Says.ReplaysKeepOrRepeat ∧ Sys2Proof.Says.SwapsRemapTiles

/-! ### The frame -/

/-- STOKE (R30-R34, R338): a module that keeps its own time takes the next frame number, its period and its time; a member whose marker or
holdover has placed the stoke (log entry 55, DESIGN CHOICE) keeps what that gave it, and without one nothing happens. The guard is over, a
switch of period that this frame makes is done; then come the actions of Table FR-1, once the frame scheduler's words are decoded
(R254, R366). After a Fatal fault only the frame counts on, and its events are recorded anew (R425). -/
def Obligations.StokeBeginsFrame : Prop :=
  ∀ (fails : List (Nat × Nat × Nat)) (s : State), s.pwr.stoked = true →
    let acts (u : State) : Prop :=
      (u.flt.fatal = true → exec (.stoke fails) s = .next u.newReports) ∧
      (u.flt.fatal = false → u.seeStoke.flt.fatal = true → exec (.stoke fails) s = .next u.seeStoke.newReports) ∧
      (u.flt.fatal = false → u.seeStoke.flt.fatal = false → exec (.stoke fails) s = .next (u.seeStoke.stokeActions fails)) ∧
      (u.calm → u.seeStoke = u)
    let switched (f : Nat) : Option (Nat × Nat) := if (s.frame.switch.map (·.2)) = some f then none else s.frame.switch
    (s.rangeState ≠ 2 → s.nextPeriod < 2 ^ 13 →
      ∃ u : State, acts u ∧ u.frameNo = (s.frameNo + 1) % 2 ^ 48 ∧ u.rf rStokePeriod 12 0 = s.nextPeriod ∧
        u.frame = { s.frame with stokeAt := s.frame.stokeAt + s.periodNs, switch := switched u.frameNo, guard := false } ∧
        u.now = max s.now (s.frame.stokeAt + s.periodNs) ∧ SameRegs s u [rFrameNumber, rStokePeriod] ∧
        u = { s with now := u.now, regs := u.regs, frame := u.frame }) ∧
    (s.rangeState = 2 → s.fab.marked = true →
      ∃ u : State, acts u ∧ u = { s with fab := { s.fab with marked := false },
                                         frame := { s.frame with switch := switched s.frameNo, guard := false } }) ∧
    (s.rangeState = 2 → s.fab.marked = false → exec (.stoke fails) s = .next s)

/-- The Damper at a stoke (R43, R45, R47, R50): unspent tokens expire, the pool is the cap less the floor times the period, carry charges
come off it, the reserves are set aside, rounded down to whole tokens (log entry 86, DESIGN CHOICE), every token of the pool is in one of
its parts, and what the charges leave to the next frame is in their ledger. That the reserves are shares of what the carry charges leave
is log entry 62 (DEDUCED). -/
def Obligations.StokeFillsThePool : Prop :=
  ∀ (s : State) (carry : Nat), s.rf rPowerCtl 22 16 ≤ 50 → s.rf rPowerCtl 30 24 ≤ 50 →
    let d := (s.stokeDamper carry).frame.damper
    let pool := (s.rf rPowerCtl 11 0 - s.rf rPowerCtl 59 48) * s.rf rStokePeriod 12 0
    let left := pool - min (carry + s.frame.damper.due) pool
    d.pool = pool ∧ d.carried = pool - left ∧ d.granted = 0 ∧ d.due = carry + s.frame.damper.due - d.carried ∧
    d.link = left * s.rf rPowerCtl 22 16 / 100 ∧ d.grate = left * s.rf rPowerCtl 30 24 / 100 ∧
    d.pool = d.carried + d.granted + d.link + d.grate + d.general ∧ d.charged = d.carried + d.due ∧ (d.shut = true ↔ pool < carry + s.frame.damper.due)

/-- GUARD_INTERVAL (R34, R430): the guard begins, the ledgers are audited, then the Draught loop runs, unless the audit or a residue of the
frame scheduler or the Damper was Fatal (R366). RESERVE_RELEASE (R47): the unspent
reserves join the general pool. DECODE_DEADLINE (R118): a decode HMUL with a row becomes ready. -/
def Sys2Proof.Says.FrameTimers : Prop :=
  (∀ s : State, s.pwr.stoked = true → s.frame.guard = false → s.flt.fatal = false →
    let v := (s.timeTo (s.frame.stokeAt + s.periodNs - 2000)).useFd [.scheduler, .damper]
    (s.calm → v = { s with now := max s.now (s.frame.stokeAt + s.periodNs - 2000) }) ∧
    (v.flt.fatal = true → exec .guardInterval s = .next v) ∧
    (v.flt.fatal = false → v.now = max s.now (s.frame.stokeAt + s.periodNs - 2000) ∧
      ∃ u : State, u = { v with frame := { v.frame with guard := true } } ∧
        exec .guardInterval s = .next (if u.audit.flt.fatal then u.audit else u.audit.draughtAll))) ∧
  (∀ s0 : State, let s := s0.useFd [.scheduler, .damper]
    s.pwr.stoked = true → s.frame.released = false → s.flt.fatal = false →
    let d := s.frame.damper
    ∃ t : State, exec .reserveRelease s0 = .next t ∧ t.now = max s.now (s.frame.stokeAt + s.periodNs / 2) ∧
      t.frame = { s.frame with released := true, damper := { d with general := d.general + d.link + d.grate, link := 0, grate := 0 } } ∧
      t = { s with now := t.now, frame := t.frame }) ∧
  (∀ (q : Nat) (s0 : State) (h : QEnt), let s := s0.atHead q
    s.Serves q oHmul h → h.cmd.decode = true → h.loaded = true → 1 ≤ s.decodeRows h.cmd →
    ∃ t : State, exec (.decodeDeadline q) s0 = .next t ∧ t.now = max s.now (s.frame.stokeAt + s.decodeDeadline) ∧
      t.queue q = { s.queue q with ents := { h with ready := true } :: (s.queue q).ents.drop 1 } ∧
      t.regs = s.regs ∧ t.mem = s.mem ∧ t.runs = s.runs)

/-- OVERRUN_LIMIT (R44): an overrun that no throttle caused, at its limit, faults its job with source 20. ARRIVAL_WATCHDOG (R362): a run that
the watchdog watches, at its limit, faults its job with source 21, and the bursts of its streams are given up; so does a STEP_SEAL whose
READY packet has waited as long for a port. -/
def Sys2Proof.Says.FrameLimitsFault : Prop :=
  ∀ (id : Nat) (s : State),
    (∀ r, s.findRun id = some r → r.crosses = true → r.throttled = false → s.rf rFrameCtl 7 0 ≤ r.crossed →
      ∃ (t : State) (ev : Ev), exec (.overrunLimit id) s = .next t ∧ ev.src = 20 ∧ t = s.contained r.cmd.dom ev []) ∧
    (∀ r, s.findRun id = some r → s.watches r = true → s.rf rCfCtl 7 0 ≤ r.idle → 0 < r.idle →
      ∃ (t : State) (ev : Ev) (ns : List Nat), exec (.arrivalWatchdog id) s = .next t ∧ ev.src = 21 ∧
        t = ns.foldl State.resetStream (s.contained r.cmd.dom ev [])) ∧
    (∀ d, s.findRun id = none → s.sealStalled id = some d →
      ∃ (t : State) (ev : Ev), exec (.arrivalWatchdog id) s = .next t ∧ ev.src = 21 ∧ t = s.contained d ev [])

/-- Events at their time in a frame, and at a limit in frames. -/
def Obligations.FrameTimersAndLimits : Prop :=
  Sys2Proof.Says.FrameTimers ∧ Sys2Proof.Says.FrameLimitsFault

/-- POWER_MONITOR_SAMPLE (R51): the hold follows the mean of 10 samples, the emergency throttle of the compute-die zones begins when the
mean of 50 passes the cap. SENSOR_SAMPLE (R435): a zone of a compute die is as hot as the hotter of its two sites. How samples are averaged is log entry 63 (DEDUCED). -/
def Sys2Proof.Says.SamplesTakeEffect : Prop :=
  (∀ (watts : Nat) (s : State), s.pwr.stoked = true →
    let d := s.frame.damper
    let l := (watts :: d.samples).take 50
    ∃ u : State, u.frame.damper.samples = l ∧
      (u.frame.damper.hold = true ↔ 10 ≤ l.length ∧ 10 * s.frame.cap < (l.take 10).sum) ∧
      (u.frame.damper.overCap = true ↔ 50 ≤ l.length ∧ 50 * s.frame.cap < l.sum) ∧
      u.reg cCapHold = (if u.frame.damper.hold = true ∧ d.hold = false then (s.bump cCapHold 1).reg cCapHold else s.reg cCapHold) ∧
      SameRegs s u [cCapHold] ∧ u.mem = s.mem ∧ u.pipe = s.pipe ∧
      exec (.powerMonitorSample watts) s = .next (if u.frame.damper.overCap = true ∧ d.overCap = false then u.emergency (List.range 32) else u)) ∧
  (∀ (i : Nat) (v : Int) (s : State), i < 64 → s.pwr.pkg ≠ .off → -32768 ≤ v → v < 32768 →
    let other := Tab.get tempReset s.frame.sites (if i % 2 = 0 then i + 1 else i - 1)
    other < 32768 → -32768 ≤ other →
    ∃ t : State, exec (.sensorSample [(i, v)]) s = .next t ∧ Tab.get tempReset t.frame.sites i = v ∧ t.tj (i / 2) = max v other ∧
      t.mem = s.mem ∧ t.pipe.queues = s.pipe.queues)

/-- The emergency throttle (R63): every zone named runs at no more than half its frequency and at no less than 1.0 GHz (code 20), and is
marked. Half of an odd code is rounded down (log entry 85, DESIGN CHOICE). -/
def Sys2Proof.Says.EmergencyHalvesZones : Prop :=
  ∀ (s : State) (zs : List Nat), zs.Nodup → (∀ z ∈ zs, z < 38) → ∀ z ∈ zs,
    20 ≤ (s.emergency zs).zFreq z ∧ (s.emergency zs).zFreq z ≤ max (s.zFreq z / 2) 20 ∧
    ((s.emergency zs).zFreq z < s.zTgt z → (s.emergency zs).rb (rZoneStatus z) 9 = true ∧ z ∈ (s.emergency zs).frame.throttled)

/-- Samples of power and temperature, and the throttle that they begin. -/
def Obligations.SamplesThrottle : Prop :=
  Sys2Proof.Says.SamplesTakeEffect ∧ Sys2Proof.Says.EmergencyHalvesZones

/-! ### The update path -/

/-- UPDATE_BLOCK_TAKE (Table UE-4): a block of NaN, overflow or poison is discarded and raises STEP_POISON with its cause; one without a
region faults the job (source 27); a frozen one is counted and leaves its parameters alone, and a poisoned frozen bit raises STEP_POISON
with cause 3 (R292); one whose step has no schedule record is discarded and faults the job (source 27); another becomes a micro-command of its
region and recipe with the latched schedule. The routing of blocks without a region is log entry 47 (DEDUCED). -/
def Sys2Proof.Says.BlocksBecomeCommands : Prop :=
  ∀ (d : Nat) (e : Env) (s0 : State) (st : StepSt) (b : GBlk), let s := (s0.seeSram (.update d)).useFd [.updater]
    (s.dom d).step = some st →
    s.upd.feed.find? (fun b => b.dom == d && b.step == st.number) = some b → s.stepState d = 3 → st.poison = none →
    s.paramReader d = false → s.flt.fatal = false →
    let s1 := s.upsets e
    let ans (t : State) : Prop := exec (.updateBlockTake d e) s0 = .next t
    (∀ k, (b.nan = true ∧ k = 1) ∨ (b.nan = false ∧ b.ofMark = true ∧ k = 2) ∨ (b.nan = false ∧ b.ofMark = false ∧ b.poison = true ∧ k = 5) →
      ans (((s1.leaveFeed b).bump (cStepDiscard d) 1).raisePoison d st.number k)) ∧
    (b.nan = false → b.ofMark = false → b.poison = false →
      ((s.pmap d).bind (fun m => m.region b.g) = none →
        ∃ ev : Ev, ev.src = 27 ∧ ans (((s1.leaveFeed b).bump (cUpdNomap d) 1).contained d ev [])) ∧
      (∀ (m : PMap) (rg : Region) (i : Nat), s.pmap d = some m → m.region b.g = some (rg, i) →
        let pos := m.position i b.g
        let fz := if m.frozenVa = 0 then (s1, 0, false) else s1.peek e d m.pages (m.frozenVa + pos / 8 : Nat) 1
        (fz.2.2 = true → ans (((fz.1.leaveFeed b).bump (cStepDiscard d) 1).raisePoison d st.number 3)) ∧
        (fz.2.2 = false → bit fz.2.1 (pos % 8) = true → ans ((fz.1.leaveFeed b).bump (cUpdFrozen d) 1)) ∧
        (fz.2.2 = false → bit fz.2.1 (pos % 8) = false → st.latched = none → ∃ ev : Ev, ev.src = 27 ∧
          ans (((fz.1.leaveFeed b).bump (cStepDiscard d) 1).contained d ev [])) ∧
        (fz.2.2 = false → bit fz.2.1 (pos % 8) = false → ∀ rec : List W32, st.latched = some rec →
          ∃ (t : State) (u : Ucmd), ans t ∧ t.upd.feed = s.upd.feed.erase b ∧ t.upd.batch = s.upd.batch ++ [u] ∧
            u.dom = d ∧ u.step = st.number ∧ u.g = b.g ∧ u.region = i ∧ u.recipe = rg.recipe ∧ u.sched = rec ∧ u.blk = b ∧
            t = { fz.1 with upd := t.upd })))

/-- UPDATE_BATCH_ISSUE (R49): with the Damper's tokens for its energy, the batch goes in order into the FIFOs of the stacks of its regions,
behind what came before it (R234), and with each of its credits a staged record can enter the feed queue (R352); before a link burst that
asks for tokens in the same moment it waits (R48; log entry 89, DESIGN CHOICE). -/
def Sys2Proof.Says.BatchesAreIssued : Prop :=
  ∀ s0 : State,
    let s := s0.useFd [.damper, .updater]
    let b := s.batchNext
    let tok := s.batchTokens
    b ≠ [] → s.frame.damper.grants .grate tok = true → s.inGuard = false → s.flt.fatal = false →
    (tok ≠ 0 → s.linkAsks = true → exec .updateBatchIssue s0 = .next s) ∧
    (tok = 0 ∨ s.linkAsks = false →
      ∃ t : State, exec .updateBatchIssue s0 = .next t ∧ t = b.foldl State.issueUcmd (s.grant .grate tok) ∧ b = s.upd.batch.take b.length ∧ b.length ≤ 256 ∧
        tok = ceilDiv ((b.map (fun u => ((s.ucmdRecipe u).map (·.energy)).getD 0)).sum) 1000 ∧
        (s.upd.staged = [] → t.upd.batch = s.upd.batch.drop b.length ∧ t.frame.damper = s.frame.damper.take .grate tok ∧
        (∀ k, t.fifo k = s.fifo k ++ (b.filter (fun u => s.ucmdStack u == k)).map GReq.micro) ∧
        (∀ k, (s.fifo k).length ≤ 512 → (t.fifo k).length ≤ 512) ∧
        t.mem = s.mem ∧ t.pipe = s.pipe))

/-- Reduced blocks on their way to the Grate units. -/
def Obligations.BlocksReachTheirUnits : Prop :=
  Sys2Proof.Says.BlocksBecomeCommands ∧ Sys2Proof.Says.BatchesAreIssued

/-- MICRO_COMMAND (R302-R304, R307-R309): the oldest request of the stack's unit, a micro-command, ends and is counted; the fourth CRC
mismatch, or no pair left to run it, faults the job (source 27); a poisoned word that it reads raises STEP_POISON with cause 3; else its
planes land in memory and its block counts as applied, in guarded mode once the journal holds their before-image, and where the journal has no
room the job faults instead. -/
def Sys2Proof.Says.MicroCommandsLand : Prop :=
  ∀ (k : Nat) (e : Env) (s0 : State) (u : Ucmd) (us0 us : List GReq), s0.fifo k = .micro u :: us0 →
    let s := s0.seeSram (.update u.dom)
    s.fifo k = .micro u :: us → s.flt.fatal = false → u.dom < 256 →
    let d := u.dom
    let v := ((s.upsets e).setFifo k us).bump (cUpdDone d) 1
    let fails (pf cf : Nat) : Prop := ∃ (w : State) (ev : Ev), ev.src = 27 ∧
      exec (.microCommand k pf cf e) s0 = .next ((w.contained d ev []).ucmdOver d) ∧ w.fifo k = us ∧
      w.reg (cUpdDone d) = (s.bump (cUpdDone d) 1).reg (cUpdDone d)
    (∀ pf cf, 4 ≤ cf → fails pf cf) ∧
    (∀ pf cf, cf < 4 → (s.pairs k).length ≤ pf + Env.strikes e 3 → fails pf cf) ∧
    (∀ (m : PMap) (rg : Region) (rc : Recipe) (st : StepSt), s.pairs k ≠ [] → Env.strikes e 3 = 0 → s.pmap d = some m →
      m.regions[u.region]? = some rg → m.recipes[u.recipe]? = some rc → (s.dom d).step = some st → st.abandoned = false →
      (∀ p ∈ m.pages, p.host = true ∨ p.addr + p.size ≤ stackEnd) →
      let b := u.g - rg.g0
      let ty : ETy := if u.blk.wide then .zg16 else .zg8
      let ctx (w : State) : X := { s := w, e := inBase e, run := ownRun d m.pages, tile := none }
      let i := (ctx v).blkRead rg rc b u.step (u.blk.elems.map (fun x => (ty.val x).scale u.blk.scale)) u.blk.rho
        (slotsOf32 (u.sched.map (·.toNat)))
      let lands (w : State) (st1 : StepSt) : Prop :=
        ∃ (t : State) (st' : StepSt), exec (.microCommand k 0 0 e) s0 = .next t ∧ t.fifo k = us ∧
          t.reg (cUpdDone d) = (s.bump (cUpdDone d) 1).reg (cUpdDone d) ∧
          t.mem = (((ctx w).blkWrite rg b (rc.run i.2.1)).flush.s).mem ∧ (t.dom d).step = some st' ∧
          m.position u.region u.g ∈ st'.applied ∧ (∀ p ∈ st.applied, p ∈ st'.applied) ∧ st'.journal = st1.journal
      (i.2.2.2 = true → exec (.microCommand k 0 0 e) s0 =
        .next (((i.1.s.bump (cPoisonRead d) i.1.pw.length).raisePoison d u.step 3).ucmdOver d)) ∧
      (i.2.2.2 = false → u.direct = true → lands i.1.s st) ∧
      (i.2.2.2 = false → u.direct = false →
        let info := (u.region, b, rc.writesW, ((List.range 3).filter rc.writes).foldl (fun a p => a + 2 ^ p) 0)
        let j := i.1.s.journal d k m (journalEntry u rc i.2.1 i.2.2.1) info
        (∀ w, j = some w → ∃ st1, (w.dom d).step = some st1 ∧
          st1.journal = (k, Tab.get natReset (s.dom d).jptr k, info.1, info.2.1, info.2.2.1, info.2.2.2) :: st.journal ∧ lands w st1) ∧
        (j = none → fails 0 0)))

/-- ROLLBACK_COMPLETE (R310, R311, Table TS-6): while the Grate units of its journals still hold what came before, it waits in their FIFOs
(R234); granted its tokens, and before no link burst (R48), every entry of its journals is restored, the journal is retired, the domain is
IDLE, and the refused step is counted; an entry that was poisoned faults the job (source 27). An entry is restored as its header says:
the bytes it keeps go back to the planes of its block, or, where they are poisoned, the planes are poisoned and `JRNL_POISON` counts them. A
stack left without a pair for the next batch faults the job (source 27), and the rollback leaves the FIFOs (log entry 93). Its place in the FIFOs
is log entry 92, that a link burst comes first log entry 89 (DESIGN CHOICE both), the tokens of its entries in batches of 256 log entry 47
(DEDUCED). -/
def Sys2Proof.Says.RollbackEndsStep : Prop :=
  (∀ (d : Nat) (e : Env) (s0 : State) (st : StepSt), d < 256 → let s := s0.seeSram (.update d)
    (s.dom d).step = some st → s.stepState d = 4 → st.rolling = true → s.ucmds d = 0 → s.flt.fatal = false →
    let s1 := s.upsets e
    let served := st.stacks.all (fun k => (s.fifo k).isEmpty || s.serves1 (.roll d) k)
    let ended (w : State) (t : State) : Prop := t.stepState d = 0 ∧ (t.dom d).step = none ∧ (t.dom d).jptr = [] ∧ (t.dom d).jbuf = [] ∧
      t.reg (cStepRefused d) = (w.bump (cStepRefused d) 1).reg (cStepRefused d) ∧ t.mem = w.mem
    (served = false → exec (.rollbackComplete d e) s0 = .next (s.askRoll d)) ∧
    (st.journal = [] → st.jrnlBad = false → (s.dom d).jlost = false →
      ∃ t : State, exec (.rollbackComplete d e) s0 = .next t ∧ ended s1 t) ∧
    (served = true → st.journal ≠ [] → st.journal.length ≤ 256 → (s.dom d).jlost = false → s1.inGuard = false →
      s1.frame.damper.grants .grate st.rollTokens = true → s1.linkAsks = false → (∀ j ∈ st.journal, s1.pairs j.1 ≠ []) →
      ∀ m, s.pmap d = some m →
      let w := st.journal.foldl (fun s j => s.restore d m j) (s1.grant .grate st.rollTokens)
      ∀ st', (w.dom d).step = some st' →
      (st'.jrnlBad = false → ∃ t : State, exec (.rollbackComplete d e) s0 = .next t ∧ ended w t) ∧
      (st'.jrnlBad = true → ∃ (u : State) (ev : Ev), ev.src = 27 ∧ exec (.rollbackComplete d e) s0 = .next (u.contained d ev []) ∧ ended w u)) ∧
    (served = true → st.journal ≠ [] → (s.dom d).jlost = false → s1.inGuard = false → s1.frame.damper.grants .grate st.rollTokens = true →
      s1.linkAsks = false → s1.rollStuck st = true → ∀ m, s.pmap d = some m →
      ∃ ev : Ev, ev.src = 27 ∧ ∀ st', ((s1.contained d ev []).dom d).step = some st' → st'.journal = st.journal →
        (s1.contained d ev []).rollStuck st' = true → exec (.rollbackComplete d e) s0 = .next ((s1.contained d ev []).unask (.roll d)))) ∧
  (∀ (s : State) (d : Nat) (m : PMap) (j : Nat × Nat × Nat × Nat × Bool × Nat) (rg : Region) (i : Nat),
    let hd := s.jrnlBytes d j.1 m j.2.1 16
    let h := leNat hd.2.1
    let b := bits h 31 0 - rg.g0
    let ps := (List.range 3).filter (bit (bits h 67 65))
    let planes := rg.journalled b (bit h 64) ps
    let r := hd.1.jrnlBytes d j.1 m (j.2.1 + 16) (64 * planes.length)
    hd.2.2 = false → m.region (bits h 31 0) = some (rg, i) →
    (r.2.2 = false → s.restore d m j =
      ps.foldl (fun s p => s.poke d m.pages (rg.scaleVa + 4 * b + p : Nat) [BitVec.ofNat 8 (bits h (8 * p + 79) (8 * p + 72))])
        ((planes.zipIdx).foldl (fun s p => s.poke d m.pages p.1 ((r.2.1.drop (64 * p.2)).take 64)) r.1)) ∧
    (r.2.2 = true → s.restore d m j =
      ((planes.foldl (fun s a => s.poisonVa m.pages a) r.1).bump (cJrnlPoison d) 1).modStep d (fun st => { st with jrnlBad := true })))

/-- Micro-commands, and the rollback of what they wrote. -/
def Obligations.MicroCommandsAndRollback : Prop :=
  Sys2Proof.Says.MicroCommandsLand ∧ Sys2Proof.Says.RollbackEndsStep

/-- PARAMETER_MAP_LOADED (R283): a map that passes its checks enables the domain and is kept; another leaves it disabled, with the first
failure in UPD_MAP_ERR. -/
def Obligations.MapsEnableDomains : Prop :=
  ∀ (d : Nat) (e : Env) (s : State), d < 256 → s.rb (rDomCtl d) 1 = true →
    (∀ (u : State) (m : PMap), (s.upsets e).loadMap e d = (u, .ok m) →
      ∃ t : State, exec (.parameterMapLoaded d e) s = .next t ∧ t.domOn d = true ∧ t.rb (rDomCtl d) 1 = false ∧ t.pmap d = some m ∧
        t.mem = u.mem ∧ SameRegs u t [rDomCtl d]) ∧
    (∀ (u : State) (c i : Nat) (mal : Bool), (s.upsets e).loadMap e d = (u, .fail c i mal) → c < 16 →
      ∃ t : State, exec (.parameterMapLoaded d e) s = .next t ∧ t.domOn d = false ∧ t.rb (rDomCtl d) 1 = false ∧
        (u.rb rUpdMapErr 24 = false → t.rf rUpdMapErr 3 0 = c ∧ t.rf rUpdMapErr 15 4 = i % 4096 ∧ t.rf rUpdMapErr 23 16 = d ∧
          t.rb rUpdMapErr 24 = true) ∧
        (u.rb rUpdMapErr 24 = true → t.reg rUpdMapErr = u.reg rUpdMapErr))

/-- ANSWER_BLOCK_ARRIVAL (R170, R182): the block of the lowest source tile; a header that fails the port's check faults the job (source 23)
and its credit returns; a block of an old epoch is stale and its credit returns; another joins the queue with its credit. A poisoned header
fails the check (log entry 51, DEDUCED). -/
def Obligations.AnswersArrive : Prop :=
  ∀ (c : Nat) (s0 : State) (a : Ans), let s := s0.seeSram (.context c)
    firstArrival (s.ctx c).inflight = some a →
    let r := s.tileBytesAt (s.aqTile c) (s.aqOff c a.slot) 32
    let h := leNat r.2.1
    let u := r.1.modCtx c (fun x => { x with inflight := x.inflight.erase a, held := x.held.filter (fun h => h.1 != a.id) })
    (∀ b ∈ (s.ctx c).inflight, a.src ≤ b.src) ∧
    (r.2.2 = true ∨ u.answerOk c h = false → ∃ ev : Ev, ev.src = 23 ∧
      exec (.answerBlockArrival c) s0 =
        .next ((((u.creditBack c).bump (cAqBad c) 1).settleEpoch c).contained ((((u.creditBack c).bump (cAqBad c) 1).settleEpoch c).ctxDom c) ev [])) ∧
    (r.2.2 = false → u.answerOk c h = true →
      (bits h 15 0 ≠ u.epoch c ∨ u.rb (rRouteEpoch c) 16 = true →
        ∃ t : State, exec (.answerBlockArrival c) s0 = .next t ∧ (t.ctx c).credits = (s.ctx c).credits + 1 ∧ (t.ctx c).queue = (s.ctx c).queue ∧
          (t.ctx c).stale = (s.ctx c).stale + 1) ∧
      (bits h 15 0 = u.epoch c → u.rb (rRouteEpoch c) 16 = false →
        ∃ t : State, exec (.answerBlockArrival c) s0 = .next t ∧ (t.ctx c).queue = (s.ctx c).queue ++ [a] ∧
          (t.ctx c).credits = (s.ctx c).credits ∧ (t.ctx c).inflight = (s.ctx c).inflight.erase a))

/-! ### Pins, vectors, scrub, tests -/

/-- SMOKE_N and EMBER (R428, R429, R436): a pulse ends at its time and the pin takes SMOKE_LEVEL,
which running firmware holds low while a Fatal fault stands and high otherwise; EMBER toggles every 500,000 counts while it is
kicked and no Fatal fault stands, and is low otherwise; a kick is noted; 10 ms without one stops the pin. -/
def Sys2Proof.Says.PinsFollowTheirRules : Prop :=
  (∀ (s : State) (t0 : Nat), s.flt.pulse = some t0 →
    ∃ t : State, exec .smokePulseEnd s = .next t ∧ t.flt.pulse = none ∧ t.flt.smoke = t.rb rSmokeLevel 0 ∧ t.now = max s.now t0 ∧
      t.rb rSmokeLevel 0 = (if s.chim.running && !s.chim.recovery && decide (s.chim.upAt ≤ t.now) then !s.flt.fatal else s.rb rSmokeLevel 0) ∧ SameRegs s t [rSmokeLevel]) ∧
  (∀ s : State, s.frame.locked = true →
    ∃ t : State, exec .emberToggle s = .next t ∧ t.flt.emberAt = s.flt.emberAt + 500000 ∧ t.now = max s.now t.flt.emberAt ∧
      t.flt.ember = (t.kicked && !s.flt.fatal && !s.flt.ember) ∧
      t.rf rEmberStatus 1 0 = (if s.flt.fatal then 2 else if t.kicked then 0 else 1) ∧ SameRegs s t [rEmberStatus]) ∧
  (∀ s : State, s.canWrite .chimney = true → ∃ t : State, exec .emberKick s = .next t ∧ t.flt.lastKick = some s.now ∧
    t.regs = (s.atWrite .chimney rEmberKick).regs ∧ t.kicked = true) ∧
  (∀ (s : State) (k : Nat), s.rf rEmberStatus 1 0 = 0 → s.flt.lastKick = some k →
    ∃ t : State, exec .emberKickTimeout s = .next t ∧ t.flt.ember = false ∧ t.rf rEmberStatus 1 0 = 1 ∧ t.now = max s.now (k + 10000001) ∧
      t.kicked = false ∧ SameRegs s t [rEmberStatus])

/-- Vectors (R414): at the end of its gap a pending IMMEDIATE vector sends its message; an unmasked pending one fires, an IMMEDIATE one not
before its gap has ended; a vector without a pending bit sends nothing, nor does any while MSI-X is not enabled or the function is masked
(what Message Control holds: log entry 34, PRESUMED). -/
def Sys2Proof.Says.VectorsFire : Prop :=
  ∀ (v : Nat) (s : State), v < 256 →
    let msg := Post.msix v (s.reg (rMsixTable + 16 * v)) (BitVec.ofNat 64 (s.rf (rMsixTable + 16 * v + 8) 31 0))
    (s.pbaBit v = true → Tab.get boolReset s.host.immediate v = true → s.masked v = false →
      ∃ (t : State) (pre : List Post), exec (.irqGapExpiry v) s = .next t ∧ t.pbaBit v = false ∧ t.host.posts = s.host.posts ++ pre ++ [msg] ∧
        t.now = max s.now (s.gapEnd v)) ∧
    (s.pwr.bar0 = true → s.pwr.d3 = false → s.pwr.msixOn = true → s.pwr.msixMask = false →
      (s.pbaBit v = true → Tab.get boolReset s.host.immediate v = false ∨ s.gapEnd v ≤ s.now →
        ∃ (t : State) (pre : List Post), exec (.msixUnmask v) s = .next t ∧ t.masked v = false ∧ t.pbaBit v = false ∧
          t.host.posts = s.host.posts ++ pre ++ [msg]) ∧
      (s.pbaBit v = false ∨ (Tab.get boolReset s.host.immediate v = true ∧ s.now < s.gapEnd v) →
        ∃ t : State, exec (.msixUnmask v) s = .next t ∧ t.masked v = false ∧ t.host = s.host ∧ SameRegs s t [rMsixTable + 16 * v + 8])) ∧
    (s.pwr.bar0 = true → s.pwr.d3 = false → s.pwr.msixOn = false ∨ s.pwr.msixMask = true →
      ∃ t : State, exec (.msixUnmask v) s = .next t ∧ t.rb (rMsixTable + 16 * v + 8) 32 = false ∧ t.masked v = true ∧ t.host = s.host ∧
        SameRegs s t [rMsixTable + 16 * v + 8]) ∧
    (s.pwr.bar0 = false ∨ s.pwr.d3 = true → exec (.msixUnmask v) s = .next s)

/-- SMOKE_N, EMBER, and the MSI-X vectors. -/
def Obligations.PinsAndVectors : Prop :=
  Sys2Proof.Says.PinsFollowTheirRules ∧ Sys2Proof.Says.VectorsFire

/-- Patrol scrub and write-back (R234, R242, R246, R253-R256): a corrected tile-store word is written back; the scrub of a stack waits for
what its Grate unit holds; a block that is corrected is written back and counts toward the mark of its die, which is marked when the count of
the pass comes to its threshold; a pass that finds no further valid block of its stack begins anew; a corrected word of other SRAM is counted
and repaired, and a pass that finds none ends; a lost valid-map word turns into poison bits; a late pass is counted once; a bank, and each kind of
other SRAM, writes its oldest queued word back. Corners of scrub are log entries 72 (DEDUCED), 92 and 98 (DESIGN CHOICE). -/
def Sys2Proof.Says.ScrubRepairs : Prop :=
  (∀ (t : Nat) (b : Bool) (e : Env) (s : State), s.pwr.stoked = true →
    let s1 := s.upsets e
    let p := Tab.get natReset s.integ.pos (32 + t)
    let k := t * tileWords + p
    ∀ v q f, s1.mem.seeWord k = (v, q, .fixed f) →
      ∃ u : State, exec (.patrolScrub (.tile t) b e) s = .next u ∧ u.mem = s1.mem.putWord k v q ∧
        u.reg cSramCe = (s.bump cSramCe 1).reg cSramCe ∧
        Tab.get natReset u.integ.pos (32 + t) = (if tileWords ≤ p + 1 then 0 else p + 1)) ∧
  (∀ (st : Nat) (b : Bool) (e : Env) (s : State), s.pwr.stoked = true → st < 24 →
    let s1 := s.upsets e
    let next := s1.mem.nextValid st (2 ^ 28 * st + Tab.get natReset s.integ.pos st)
    let served := (s.fifo st).isEmpty || s.serves1 .scrub st
    (served = false → ∃ u : State, exec (.patrolScrub (.stack st) b e) s = .next u ∧ u.mem = s1.mem ∧ u.regs = s.regs) ∧
    (served = true → next = none →
      ∃ u : State, exec (.patrolScrub (.stack st) b e) s = .next u ∧ Tab.get natReset u.integ.pos st = 0 ∧
        Tab.get natReset u.integ.began st = s.now ∧ st ∉ u.integ.late ∧ u.mem = s1.mem ∧ u.regs = s.regs) ∧
    (served = true → s1.integ.errs = [] → ∀ n k, next = some n → (s1.decode n).1 = .fixed k → k < 18 →
      let c := Tab.get natReset s1.integ.passErr (18 * st + k) + 1
      ∃ u : State, exec (.patrolScrub (.stack st) b e) s = .next u ∧ u.mem.hasErr n = false ∧
        (∀ i, i < 256 → u.dataByte (256 * n + i) = s1.dataByte (256 * n + i)) ∧
        u.reg (cRsCe st k) = (s.bump (cRsCe st k) 1).reg (cRsCe st k) ∧
        Tab.get natReset u.integ.pos st = n + 1 - 2 ^ 28 * st ∧ Tab.get natReset u.integ.passErr (18 * st + k) = c ∧
        (c < s.rf rIntegCtl 15 0 → u.marked st = s.marked st) ∧
        (s.rf rIntegCtl 15 0 ≤ c → s.marked st = none → u.marked st = some k ∧ (st, k) ∈ u.chim.dies))) ∧
  (∀ (w : ScrubStore) (e : Env) (s : State), s.pwr.stoked = true → (∀ t, w ≠ .tile t) → (∀ t, w ≠ .stack t) →
    ((s.upsets e).integ.nextErr w = none →
      ∃ u : State, exec (.patrolScrub w false e) s = .next u ∧ Tab.get natReset u.integ.began (scrubKey w) = s.now ∧
        scrubKey w ∉ u.integ.late ∧ u.mem = (s.upsets e).mem ∧ u.regs = s.regs) ∧
    (∀ r f, (s.upsets e).integ.nextErr w = some r → bchDecode r.2.toNat = .fixed f →
      ∃ u : State, exec (.patrolScrub w false e) s = .next u ∧ u.integ.errs = (s.upsets e).integ.errs.erase r ∧
        (r.2.toNat = f → w ≠ .chimney ∨ s.pwr.pkg = .released → u.reg cSramCe = (s.bump cSramCe 1).reg cSramCe) ∧
        (r.2.toNat = f → u.mem.stack = (s.upsets e).mem.stack ∧ ∀ k, Tab.get wordReset u.mem.valid k = Tab.get wordReset (s.upsets e).mem.valid k ∧
          Tab.get boolReset u.mem.vpoison k = Tab.get boolReset (s.upsets e).mem.vpoison k))) ∧
  (∀ (k : Nat) (e : Env) (s : State), s.pwr.stoked = true →
    ∃ u : State, exec (.patrolScrub (.validMap k) true e) s = .next u ∧ Tab.get wordReset u.mem.valid k = ~~~0#64 ∧
      Tab.get boolReset u.mem.vpoison k = true ∧ (∀ j, j / 64 = k → u.mem.mapPoisoned j = true) ∧
      u.reg cSramUe = (s.bump cSramUe 1).reg cSramUe) ∧
  (∀ (w : ScrubStore) (s : State), s.pwr.stoked = true → s.integ.late.contains (scrubKey w) = false →
    ∃ u : State, exec (.scrubLate w) s = .next u ∧ scrubKey w ∈ u.integ.late ∧ u.reg cScrubLate = (s.bump cScrubLate 1).reg cScrubLate ∧
      SameRegs s u [cScrubLate] ∧ u.mem = s.mem) ∧
  (∀ (tile bank : Nat) (s : State) (k : Nat) (rest : List Nat), tile ≠ 96 → Tab.get listReset s.mem.wbq (32 * tile + bank) = k :: rest →
    let m : Mem := { s.mem with wbq := Tab.set listReset s.mem.wbq (32 * tile + bank) rest }
    (∀ v p f, m.seeWord k = (v, p, .fixed f) → exec (.sramWriteBack tile bank) s = .next (s.setMem (m.putWord k v p))) ∧
    ((m.seeWord k).2.2 = .clean → exec (.sramWriteBack tile bank) s = .next (s.setMem m))) ∧
  (∀ (kind : Nat) (s : State) (w : ScrubStore × Nat) (rest : List (ScrubStore × Nat)),
    Tab.get wordsReset s.integ.wbq (128 + kind) = w :: rest →
    (∀ r, s.integ.errs.find? (fun r => r.1 == w) = some r → bchDecode r.2.toNat = .fixed r.2.toNat →
      exec (.sramWriteBack 96 kind) s = .next ((s.unqueue w).dropErr r)) ∧
    (s.integ.errs.find? (fun r => r.1 == w) = none → exec (.sramWriteBack 96 kind) s = .next (s.unqueue w)))

/-- In-field tests and tile stores (R214, R380, R381): a tile falls due and its next time is one period later; a SPARE that is free starts
its test; at the end of the grace a busy tile is closed to admission; a store that has been zeroed is open to its new owner. Corners of the tests are log entry 73 (DEDUCED). -/
def Sys2Proof.Says.TestsAndStores : Prop :=
  (∀ (die phys : Nat) (s : State), let j := 52 * die + phys
    die < 2 → phys < 52 → Tab.get natReset s.tiles.dueAt j ≠ 0 →
    ∃ t : State, exec (.testDue die phys) s = .next t ∧ Tab.get natReset t.tiles.dueAt j = Tab.get natReset s.tiles.dueAt j + s.testPeriod ∧
      t.now = max s.now (Tab.get natReset s.tiles.dueAt j - 1) ∧
      (s.tileState j ≠ 1 → j ∈ t.tiles.due ∧ t.regs = s.regs) ∧
      (s.tileState j = 1 → j ∈ s.spares (j / 52) → s.serves j = false → s.dieTests (j / 52) = false →
        t.tileState j = 2 ∧ (j, 0, false) ∈ t.tiles.testing ∧ j ∉ t.tiles.due)) ∧
  (∀ (die tile n : Nat) (s : State), let k := 48 * die + tile
    tile < 48 → s.pendingFor (s.physOf k) = some n → s.rf rSeCtl 47 32 ≤ n → s.hasSpare die = true → s.dieTests die = false → s.tiles.drains.contains k = false →
    ∃ u : State, exec (.testGraceExpiry die tile) s = .next (u.drainSwaps) ∧ u.tileClosed k = true ∧
      u = { s with tiles := { s.tiles with drains := s.tiles.drains ++ [k] } }) ∧
  (∀ (die tile : Nat) (s : State), s.tiles.zeroing.contains (48 * die + tile) = true →
    ∃ t : State, exec (.tileStoreZeroed die tile) s = .next t ∧ t.tiles.zeroing = s.tiles.zeroing.filter (· != 48 * die + tile) ∧
      t = { s with tiles := t.tiles })

/-- Patrol scrub, write-back, in-field tests, zeroed tile stores. -/
def Obligations.ScrubAndTests : Prop :=
  Sys2Proof.Says.ScrubRepairs ∧ Sys2Proof.Says.TestsAndStores

/-! ### Chaug -/

/-- What a member's packets may hold (Tables CF-6 to CF-8): every field in its width, whole units of payload, at most 15 units. -/
def Sys2Proof.Machine.Pkt.Fits (k : Pkt) : Prop :=
  k.vc < 8 ∧ k.src < 1024 ∧ k.dst < 1024 ∧ k.epoch < 2 ^ 16 ∧ k.pmask < 2 ^ 14 ∧ k.data.length % 16 = 0 ∧ k.units ≤ 15 ∧
  k.f.length = k.kind.widths.length ∧ ∀ (i w x : Nat), k.kind.widths[i]? = some w → k.f[i]? = some x → x < 2 ^ w

/-- Packets survive their encoding (R328): the packets that fill a flit are read back, every field of them, and nothing else is. -/
def Sys2Proof.Says.PacketsRoundTrip : Prop :=
  ∀ ks : List Pkt, (∀ k ∈ ks, k.Fits) → (ks.map Pkt.units).sum ≤ 15 →
    parseUnits 15 (padTo 240 (ks.flatMap Pkt.bytes ++ [0x0F#8])) = (ks, [])

/-- A flit survives its encoding (Tables CF-3, CF-4), its CRC included. -/
def Sys2Proof.Says.FlitsRoundTrip : Prop :=
  ∀ f : Flit, f.seq < 4096 → f.ack < 4096 → f.kind < 4 → f.crVc < 8 → f.crTotal < 65536 → f.payload.length = 240 → flitOf f.bytes = some f

/-- Packets and flits survive their encoding. -/
def Obligations.EncodingsRoundTrip : Prop :=
  Sys2Proof.Says.PacketsRoundTrip ∧ Sys2Proof.Says.FlitsRoundTrip

/-- FLIT_RECEIVE (R323, R324): a flit with a bad CRC or another SEQ owes a NAK; an accepted flit's packets join the receive buffer behind
those that wait, and SEQ moves on; control flits go to their rows. Packets that no channel of theirs carries are dropped (log entry 40, DEDUCED). -/
def Obligations.FlitsAreTaken : Prop :=
  ∀ (p : Nat) (flit : List Byte) (s0 : State), let s := s0.useFd [.netif]
    s.portUpB p = true →
    let t := s.port p
    (flitOf flit = none ∨ (∃ f, flitOf flit = some f ∧ f.ctrl = false ∧ f.seq ≠ t.rxSeq) →
      ∃ u : State, exec (.flitReceive p flit 0 0) s0 = .next (u.pump p) ∧ u.port p = { t with nakOwed := true } ∧
        (∀ j, j ≠ p → u.port j = s.port j) ∧ u.mem = s.mem ∧ u.pipe = s.pipe) ∧
    (∀ f, flitOf flit = some f → f.ctrl = false → f.seq = t.rxSeq → bits (leNat (f.payload.take 1)) 3 0 ≠ 15 →
      ∃ u : State, exec (.flitReceive p flit 0 0) s0 = .next (u.linkHeader p f) ∧ (u.port p).rxSeq = (t.rxSeq + 1) % 4096 ∧
        (u.port p).ackOwed = true ∧ (u.port p).rx = t.rx ++ (parseUnits 15 f.payload).1.filter (fun k => k.kind.onVc k.vc) ∧ u.mem = s.mem) ∧
    (∀ f, flitOf flit = some f → f.ctrl = true →
      ∃ u : State, exec (.flitReceive p flit 0 0) s0 = .next (u.linkHeader p f) ∧
        u.fab.markers = s.fab.markers ++ (if f.kind = 0 then [(p, s.now, f.payload)] else []) ∧
        u.fab.echoes = s.fab.echoes ++ (if f.kind = 1 then [p] else []) ∧
        u.fab.replies = s.fab.replies ++ (if f.kind = 2 then [(p, s.now)] else []) ∧ u.fab.ports = s.fab.ports)

/-- LEAF (R348, R351, R357): a leaf of another epoch is stale; one that is there already is a duplicate; a leaf that fits its standing
reduction is kept until its block closes. -/
def Sys2Proof.Says.LeavesAreKept : Prop :=
  ∀ (p v : Nat) (s0 : State) (k : Pkt), let s := s0.taking p
    s.rxHead p v = some k → k.kind = .leaf → k.dst = s.member → s.flt.fatal = false →
    let u := s.takeRx p k
    let g := k.f.getD 0 0
    let blk := k.f.getD 2 0
    (u.groupLive g k.epoch = false → exec (.leaf p v) s0 = .next (u.bump (cCfStale (u.groupDom g)) 1)) ∧
    (u.groupLive g k.epoch = true → ∀ c, u.collAt g (k.f.getD 1 0) = some c →
      let rank := c.members.idxOf k.src
      let ty := (tileEty c.ety).getD .za32
      opReduces c.op = true → rank < c.members.length → rank ≠ c.rank → blk < shardBlocks c.n c.q c.rank → k.f.getD 4 0 = c.ety →
      k.data.length = 32 * ty.size → blk ∉ c.closed →
      (Tab.get (fun _ => none) c.leaves (1024 * blk + rank) ≠ none → exec (.leaf p v) s0 = .next (u.bump cCfDup 1)) ∧
      (Tab.get (fun _ => none) c.leaves (1024 * blk + rank) = none →
        ∃ t : State, exec (.leaf p v) s0 = .next t ∧ ∀ c', t.findColl c.id = some c' → blk ∈ c'.closed ∨
          Tab.get (fun _ => none) c'.leaves (1024 * blk + rank) =
            some ⟨(List.range 32).map (fun i => leNat ((k.data.drop (i * ty.size)).take ty.size)), signed 8 (k.f.getD 3 0), k.pmask != 0⟩))

/-- GATHER_PACKET (R329, R350): data of a collective that is yet to be admitted waits; data that fits a standing one is written to its
destination, and its units count as received; data of one that has ended is a duplicate (log entry 95, DEDUCED). What comes before its
admission waits as log entry 43 (DEDUCED) says. -/
def Sys2Proof.Says.GatheredDataLands : Prop :=
  ∀ (p v : Nat) (s0 : State) (k0 : Pkt), s0.rxHead p v = some k0 →
    let waits := k0.kind = .gather ∧ k0.dst = s0.member ∧ s0.groupLive (k0.f.getD 0 0) k0.epoch = true ∧
      s0.seqAhead (k0.f.getD 0 0) (k0.f.getD 1 0) = true ∧ s0.flt.fatal = false
    (waits → exec (.gatherPacket p v) s0 = .next s0) ∧
    (¬waits → let s := s0.taking p
      ∀ k, s.rxHead p v = some k → k.kind = .gather → k.dst = s.member → s.flt.fatal = false →
      let u := s.takeRx p k
      let g := k.f.getD 0 0
      let u0 := k.f.getD 2 0
      let m := k.data.length / 16
      u.groupLive g k.epoch = true →
      (u.collAt g (k.f.getD 1 0) = none → exec (.gatherPacket p v) s0 = .next (u.bump cCfDup 1)) ∧
      (∀ c r, u.collAt g (k.f.getD 1 0) = some c → u.findRun c.id = some r →
        let rank := c.members.idxOf k.src
        let dst := dAt r.descs 1
        let w := c.range rank
        c.toStream = false → opReduces c.op = false ∨ opGathers c.op = true → rank < c.members.length → rank ≠ c.rank → m ≠ 0 →
        (rangeFrom u0 m).all (partHas (unitRuns dst.ty dst.bscaled c.n w.1 w.2)) = true →
        (rangeFrom u0 m).any (fun n => c.got.contains (1024 * n + rank)) = false →
        let x := (u.collX r).putUnits c dst rank u0 k.data k.pmask
        ∃ t : State, exec (.gatherPacket p v) s0 = .next t ∧ t.mem = x.settle.mem ∧
          ∀ c', t.findColl c.id = some c' → ∀ i, i < m → 1024 * (u0 + i) + rank ∈ c'.got))

/-- STREAM (R360, R363): data of another epoch is stale and answered with the epoch in force, and with no limit to one that does not send the
open burst (log entry 133, DEDUCED); data of the open burst within its limit goes
into the ring, and counts. -/
def Sys2Proof.Says.StreamsFillTheirRing : Prop :=
  ∀ (p v : Nat) (s0 : State) (k : Pkt), let s := s0.taking p
    s.rxHead p v = some k → k.kind = .stream → k.dst = s.member → s.flt.fatal = false →
    let u := s.takeRx p k
    let n := k.f.getD 0 0
    let off := k.f.getD 2 0
    let m := k.data.length / 16
    let t := u.stream n
    let d := u.rf (rStreamCfg n) 7 0
    let size := 16 * (m - 1) + (if (k.f.getD 3 0 == 1 && k.f.getD 4 0 != 0) = true then k.f.getD 4 0 else 16)
    (u.rf (rStreamEpoch n) 15 0 ≠ k.epoch →
      exec (.streamPacket p v) s0 = .next ((u.bump (cCfStale d) 1).send
        { kind := .grant, vc := 0, src := u.member, dst := k.src, epoch := u.rf (rStreamEpoch n) 15 0, f := [n, t.burst, if t.known && t.sender == k.src then t.limit else 0] })) ∧
    (u.rf (rStreamEpoch n) 15 0 = k.epoch → u.rb (rStreamCfg n) 16 = true → k.f.getD 1 0 = t.burst → t.known = true → k.src = t.sender →
      m ≠ 0 → off + m ≤ t.limit → (rangeFrom off m).any (fun x => t.got.contains x) = false →
      ∃ r : State, exec (.streamPacket p v) s0 = .next r ∧
        r.mem = (u.ringBytes d n (t.base + 16 * off) ((k.data.take size).zipIdx.map (fun b => (b.1, bit k.pmask (b.2 / 16))))).mem ∧
        r.reg (rStreamBytes n) = BitVec.ofNat 64 ((s.reg (rStreamBytes n)).toNat + size))

/-- The data packets of Chaug: LEAF, GATHER, STREAM. -/
def Obligations.DataPacketsLand : Prop :=
  Sys2Proof.Says.LeavesAreKept ∧ Sys2Proof.Says.GatheredDataLands ∧ Sys2Proof.Says.StreamsFillTheirRing

/-- Control packets (R335, R343, R344, R353, R360, R363) for this member. A WINDOW sets the limit of its standing collective, or is kept, with
its port, for one to come; one that contradicts faults its job (source 24). A GRANT of a burst sent whole changes nothing; of another epoch than
a burst's it stops that burst, the packets of it that have not left are not sent, and its limit is then taken; one of a burst in course sets its
limit; the first of a burst gives the limit to the BROADCAST that stands
without one, or waits. POISON sets STEP_POISON of the open step, waits for the next one, or is stale; READY counts on the frame master alone.
A GRANT that lets no unit go names no burst (log entry 133, DEDUCED). What is kept of a WINDOW or GRANT is log entry 43, and which step a POISON waits for log entry 45 (DEDUCED both). -/
def Sys2Proof.Says.ControlPackets : Prop :=
  ∀ (p v : Nat) (s0 : State) (k : Pkt), let s := s0.taking p
    s.rxHead p v = some k → k.dst = s.member → s.flt.fatal = false →
    let u := s.takeRx p k
    let a (i : Nat) := k.f.getD i 0
    (k.kind = .window →
      (∀ c, u.collAt (a 0) (a 1) = some c → opReduces c.op = true → c.members.idxOf k.src < c.members.length → c.members.idxOf k.src ≠ c.rank →
        a 2 ≤ shardBlocks c.n c.q (c.members.idxOf k.src) →
        exec (.window p v) s0 = .next ((u.modColl c.id (fun c' => { c' with limit := modAt c'.limit (c.members.idxOf k.src) (fun _ => a 2) })).heard c.id)) ∧
      (∀ c, u.collAt (a 0) (a 1) = some c → opReduces c.op = false ∨ c.members.length ≤ c.members.idxOf k.src ∨ c.members.idxOf k.src = c.rank ∨
          shardBlocks c.n c.q (c.members.idxOf k.src) < a 2 →
        ∃ ev : Ev, ev.src = 24 ∧ exec (.window p v) s0 = .next (((u.bump (cCfMismatch c.dom) 1).contained c.dom ev []).heard c.id)) ∧
      (u.collAt (a 0) (a 1) = none → u.rb (rCgroupCtl (a 0)) 24 = true → u.seqAhead (a 0) (a 1) = true →
        exec (.window p v) s0 = .next (u.keepEarly (a 0) (a 1) p k.src (a 2)))) ∧
    (k.kind = .grant → u.burstSent (a 0) k.src k.epoch (a 1) = true → exec (.grant p v) s0 = .next u) ∧
    (k.kind = .grant → u.burstSent (a 0) k.src k.epoch (a 1) = false →
      let u' := u.dropUnsent (fun q => q.kind == .stream && q.f.getD 0 0 == a 0 && q.dst == k.src && q.epoch != k.epoch)
      let cs := u'.sendersTo (a 0) k.src
      (cs = [] → exec (.grant p v) s0 = .next (if a 2 = 0 then u' else u'.keepEarly (64 + a 0) (a 1) k.epoch k.src (a 2))) ∧
      (∀ c, (∀ c' ∈ cs, ∀ b, c'.burstTo k.src = some b → b.2 = k.epoch) → cs.find? (fun c => c.burstTo k.src == some (a 1, k.epoch)) = some c →
        exec (.grant p v) s0 = .next ((u'.modColl c.id (fun c' => { c' with
          limit := modAt c'.limit (c'.members.idxOf k.src) (fun _ => a 2) })).heard c.id)) ∧
      (∀ c rest, a 2 ≠ 0 → cs = c :: rest → c.burstTo k.src = none → (∀ c' ∈ rest, c'.burstTo k.src = none) →
        exec (.grant p v) s0 = .next ((u'.modColl c.id (fun c' => { c' with
          limit := modAt c'.limit (c'.members.idxOf k.src) (fun _ => a 2)
          grants := modAt c'.grants (c'.members.idxOf k.src) (fun _ => some (a 1, k.epoch)) })).heard c.id)) ∧
      (∀ c rest b, cs = c :: rest → c.burstTo k.src = some b → b.2 ≠ k.epoch →
        (∀ r, u'.findRun c.id = some r →
          ∃ ev : Ev, ev.src = 24 ∧ ev.cmd = some r.cmd ∧ ev.detail = 11 ∧
            exec (.grant p v) s0 = .next ((((((u'.quietBurst c.id).dropRun c.id).freeColl c.id).complete r.cmd
              { r.res with status := 3, cause := 11, aliased := r.aliased } false).contained c.dom ev []).takeGrant (a 0) k.src (a 1) k.epoch (a 2))))) ∧
    (k.kind = .poison →
      (∀ st, (u.dom (a 0)).step = some st → st.number = a 2 → u.stepOpenB (a 0) = true →
        ∃ t : State, exec (.poison p v) s0 = .next t ∧
          (t.dom (a 0)).step = some { st with poison := if st.poison.isSome then st.poison else some (a 1, k.src) }) ∧
      ((u.dom (a 0)).step = none → u.rf (rStepNumber (a 0)) 31 0 ≠ a 2 → nextStep (u.rf (rStepLastSealed (a 0)) 31 0) = a 2 →
        ∃ t : State, exec (.poison p v) s0 = .next t ∧ (t.dom (a 0)).held = (s.dom (a 0)).held ++ [(a 2, a 1, k.src)] ∧ t.regs = u.regs) ∧
      ((u.dom (a 0)).step = none → u.rf (rStepNumber (a 0)) 31 0 = a 2 ∨ nextStep (u.rf (rStepLastSealed (a 0)) 31 0) ≠ a 2 →
        exec (.poison p v) s0 = .next (u.bump cPoisonStale 1))) ∧
    (k.kind = .ready →
      (u.rangeState = 3 → exec (.ready p v) s0 = .next (u.countReady (a 0) (a 2) (a 1) k.src)) ∧
      (u.rangeState ≠ 3 → exec (.ready p v) s0 = .next u))

/-- A packet for another member is malformed (R330's counts; log entry 40): it leaves the buffer and is counted. -/
def Sys2Proof.Says.ForeignPacketsAreCounted : Prop :=
  ∀ (p v : Nat) (s0 : State) (k k0 : Pkt), let s := s0.taking p
    s.rxHead p v = some k → k.dst ≠ s.member → s.flt.fatal = false → s0.rxHead p v = some k0 → k0.dst ≠ s0.member →
    ∀ row ∈ [(Instr.leaf p v, PKind.leaf), (.streamPacket p v, .stream), (.window p v, .window), (.grant p v, .grant), (.poison p v, .poison),
      (.ready p v, .ready), (.gatherPacket p v, .gather)],
      (k.kind = row.2 → exec row.1 s0 = .next ((s.takeRx p k).bump cCfBad 1)) ∧ (k.kind ≠ row.2 → exec row.1 s0 = .next s)

/-- The control packets of Chaug, and packets for another member. -/
def Obligations.ControlPacketsAct : Prop :=
  Sys2Proof.Says.ControlPackets ∧ Sys2Proof.Says.ForeignPacketsAreCounted

/-- The stokes of a range (R336-R341, R464): a master counts a marker as a conflict; a member takes frame, period, time (the marker's arrival
less its offset and the delay) and seal map from one within 100 ns of its expected stoke, or holds over by itself; after enough held stokes it detaches and its groups are disabled; a joining module becomes a member at its
joining stoke, which a local stoke less than 4 us before moves to the master's next one, at the period announced for it. Jobs fault in ascending
domain (R419). After a Fatal fault a module takes no marker and makes no joining stoke (R423). A member's stoke is placed by its marker and acted by the row STOKE (log entry 55, DESIGN CHOICE), at whole nanoseconds (log entry 105, DESIGN
CHOICE). -/
def Sys2Proof.Says.RangeStokes : Prop :=
  (∀ (p : Nat) (s : State) (mk : Nat × Nat × List Byte), s.fab.markers.find? (fun m => m.1 == p) = some mk →
    let m := markerOf mk.2.2
    let at' := mk.2.1 - (m.offsetPs + s.rf rRangeStatus 63 32) / 1000
    let due := s.frame.stokeAt + s.periodNs
    (s.rangeState = 3 → ∃ t : State, exec (.stokeMarker p) s = .next t ∧ t.reg cStokeConflict = (s.bump cStokeConflict 1).reg cStokeConflict ∧
      t.fab.markers = s.fab.markers.erase mk ∧ SameRegs s t [cStokeConflict]) ∧
    (s.rangeState = 2 → s.fab.marked = false → s.flt.fatal = false → p = s.rf rRangeCtl 14 10 → m.hops ≤ 16 → m.frame ≠ s.frameNo → at' ≤ due + 100 → due ≤ at' + 100 →
      ∃ t : State, exec (.stokeMarker p) s = .next t ∧ t.frameNo = m.frame ∧ t.rf rStokePeriod 12 0 = m.period ∧
        t.frame.stokeAt = at' ∧ t.rf rRangeStatus 6 2 = m.hops + 1 ∧
        t.fab.marked = true ∧ t.fab.sealMap = m.sealMap ∧ t.fab.heldStokes = 0 ∧
        t.frame.switch = (if m.nextPeriod = 0 then none else some (m.nextPeriod, m.switchFrame)) ∧
        SameRegs s t [rFrameNumber, rStokePeriod, rRangeStatus]) ∧
    (s.rangeState = 2 → s.fab.marked = false → due + 100 < at' ∨ at' + 100 < due ∨ s.flt.fatal = true →
      exec (.stokeMarker p) s = .next { s with fab := { s.fab with markers := s.fab.markers.erase mk } })) ∧
  (∀ s : State, s.rangeState = 2 → s.fab.marked = false → s.nextPeriod < 2 ^ 13 →
    ∃ t : State, exec .stokeMissing s = .next t ∧ t.frameNo = (s.frameNo + 1) % 2 ^ 48 ∧ t.rf rStokePeriod 12 0 = s.nextPeriod ∧
      t.frame.stokeAt = s.frame.stokeAt + s.periodNs ∧ t.now = max s.now (s.frame.stokeAt + s.periodNs + 100) ∧ t.fab.marked = true ∧
      t.fab.heldStokes = s.fab.heldStokes + 1 ∧ t.fab.sealMap = [] ∧ t.reg cStokeMiss = (s.bump cStokeMiss 1).reg cStokeMiss) ∧
  (∀ s : State, s.rangeState = 2 → s.rf rCfCtl 14 8 ≤ s.fab.heldStokes →
    ∃ (u : State) (ds : List Nat) (ev : Ev), exec .rangeDetach s = .next (ds.foldl (fun s d => s.contained d ev []) u) ∧ ev.src = 21 ∧
      u.rangeState = 0 ∧ u.fab.heldStokes = 0 ∧ u.frame.switch = none ∧ u.fab.joining = none ∧ (∀ k, k < 64 → u.rb (rCgroupCtl k) 24 = false) ∧
      (∀ d, d ∈ ds ↔ ∃ k, k < 64 ∧ s.rb (rCgroupCtl k) 24 = true ∧ s.groupDom k = d) ∧ ds.Pairwise (· < ·)) ∧
  (∀ s : State, s.flt.fatal = true → exec .joiningStoke s = .next s) ∧
  (∀ (s : State) (j : Joining), s.rangeState = 1 → s.flt.fatal = false → s.fab.joining = some j → j.period < 2 ^ 13 →
    (j.at' < s.frame.stokeAt + 4000 → ∃ t : State, exec .joiningStoke s = .next t ∧ t.regs = s.regs ∧ t.fab.joining = some { j with
      frame := j.frame + 1, at' := j.at' + j.period * 1000, period := if j.next ≠ 0 ∧ j.switch = j.frame + 1 then j.next else j.period }) ∧
    (s.frame.stokeAt + 4000 ≤ j.at' → ∃ t : State, exec .joiningStoke s = .next t ∧ t.rangeState = 2 ∧ t.frameNo = j.frame % 2 ^ 48 ∧
      t.rf rStokePeriod 12 0 = j.period ∧ t.frame.stokeAt = j.at' ∧ t.now = max s.now j.at' ∧ t.fab.joining = none ∧ t.fab.heldStokes = 0 ∧
      t.fab.marked = true ∧ t.frame.switch = (if j.next ≠ 0 ∧ j.frame < j.switch then some (j.next, j.switch) else none)))

/-- Registers that a Corrected event may change: its count, and where it is recorded the fault ring's index and its losses (R425, R426). -/
def Sys2Proof.Says.minorRegs : List Nat := [cFaultCe, cFaultLost, rFaultPi]

/-- Echoes and ports (R322, R331, R338, R461): a request is answered; a reply measures half the round trip less the turnaround; a
measurement starts with a request; a port goes down with its receive buffer kept, comes up with its partner's credits, and starts training
again after a second; a loss and a new training are Corrected events (log entry 114, DEDUCED). The payload of a reply is a free value (log entry 57, DESIGN CHOICE), and what a lost link keeps is log entry 41 (DESIGN CHOICE). -/
def Sys2Proof.Says.EchoesAndPorts : Prop :=
  (∀ (p : Nat) (s : State), s.fab.echoes.contains p = true → s.portUpB p = true →
    ∃ (t : State) (bs : List Byte), exec (.echoRequest p) s = .next t ∧ t.fab.echoes = s.fab.echoes.erase p ∧ t.fab.wire = s.fab.wire ++ [(p, bs)] ∧
      t.regs = s.regs) ∧
  (∀ (p turn : Nat) (s : State) (r : Nat × Nat) (t0 : Nat), s.fab.replies.find? (fun r => r.1 == p) = some r → s.fab.echoAt = some t0 →
    p = s.rf rRangeCtl 14 10 →
    ∃ t : State, exec (.echoReply p turn) s = .next t ∧ t.rf rRangeStatus 63 32 = (((r.2 - t0) * 1000 - turn) / 2) % 2 ^ 32 ∧
      t.fab.replies = s.fab.replies.erase r ∧ t.fab.echoAt = none ∧ SameRegs s t [rRangeStatus]) ∧
  (∀ s : State, s.rangeState = 1 ∨ s.rangeState = 2 → 4096 ≤ s.fab.sinceEcho → s.portUpB (s.rf rRangeCtl 14 10) = true →
    ∃ (t : State) (bs : List Byte), exec .delayMeasurement s = .next t ∧ t.fab.echoAt = some s.now ∧ t.fab.sinceEcho = 0 ∧
      t.fab.wire = s.fab.wire ++ [(s.rf rRangeCtl 14 10, bs)] ∧ t.regs = s.regs) ∧
  (∀ (p : Nat) (s : State), p < 18 → s.portUpB p = true →
    ∃ t : State, exec (.portDown p) s = .next t ∧ t.portState p = 0 ∧ (t.port p).rx = (s.port p).rx ∧ (t.port p).retry = [] ∧
      (t.port p).sendq = [] ∧ SameRegs s t (rPortStatus p :: Says.minorRegs) ∧ t.reg cFaultCe = (s.bump cFaultCe 1).reg cFaultCe ∧ t.mem = s.mem) ∧
  (∀ (p : Nat) (rev : Bool) (credits : List Nat) (s : State), p < 18 → s.rb (rPortCfg p) 0 = true → s.portUpB p = false → s.pwr.pkg = .released →
    ∃ t : State, exec (.portUp p rev credits) s = .next t ∧ t.portState p = 2 ∧ t.rb (rPortStatus p) 10 = rev ∧
      (t.port p).credits = (credits ++ List.replicate 8 0).take 8 ∧ (t.port p).rx = (s.port p).rx ∧ SameRegs s t [rPortStatus p]) ∧
  (∀ (p : Nat) (s : State), p < 18 → s.rb (rPortCfg p) 0 = true → s.portUpB p = false → s.pwr.pkg = .released →
    ∃ t : State, exec (.portTrainRetry p) s = .next t ∧ t.portState p = 1 ∧ t.now = max s.now ((s.port p).since + 1000000000) ∧
      (t.port p).since = t.now ∧ SameRegs s t (rPortStatus p :: Says.minorRegs) ∧ t.reg cFaultCe = (s.bump cFaultCe 1).reg cFaultCe)

/-- A module in its range: stokes, echoes, ports. -/
def Obligations.RangesAndPorts : Prop :=
  Sys2Proof.Says.RangeStokes ∧ Sys2Proof.Says.EchoesAndPorts

/-! ### The host interface -/

/-- A value of CMD_PI (R401, R402): within the ring's length of CI it is in force (a kick never takes it back); further away it is an error
of the ring and its job (source 26), but with kick enable a value behind CI is stale. The order of checks with kicks is the reading of log entry 75 (DEDUCED). -/
def Sys2Proof.Says.ProducerIndexRule : Prop :=
  ∀ (s : State) (r v : Nat), s.rb (rRingCfg r) 0 = true → s.ringState r = 1 →
    let a := idxSub v (s.ring r).ci
    let kick := s.rb (rRingCfg r) 32
    (a ≤ s.ringLen r → kick = false ∨ idxSub (s.ring r).pi (s.ring r).ci ≤ a → s.newPi r v = s.setRing r { s.ring r with pi := v }) ∧
    (a ≤ s.ringLen r → kick = true → a < idxSub (s.ring r).pi (s.ring r).ci → s.newPi r v = s) ∧
    (s.ringLen r < a → kick = true → 2 ^ 31 ≤ a → s.newPi r v = s) ∧
    (s.ringLen r < a → kick = false ∨ a < 2 ^ 31 → ∃ (u : State) (ev : Ev), s.newPi r v = u.contained (s.ringDom r) ev [] ∧ ev.src = 26 ∧
      u.ringState r = 2 ∧ (u.ring r).buf = [] ∧ (u.ring r).asked = 0)

/-- Accesses of the host (R387-R389, R400-R403, R412), where the package is released and its link is up: a doorbell block that returns is taken ring by
ring, and a failed read is counted, with the bit of AER that says why; fetched entries join the buffer; a kick sets its ring's index; with either,
the window writes that a read of BAR0 has completed after are in memory, and a free value decides for the others (log entry 74), in their order at
each stack (R231); a tally page adds to its tally; accesses of another size are counted; a window read is unsupported. The places of AER's bits and
the switch of ECRC checking are log entry 34 (PRESUMED). -/
def Sys2Proof.Says.HostTraffic : Prop :=
  (∀ (res : ReadEnd) (block : List W64) (s : State), s.host.dbAsked = true →
    let bad := res = .failed ∨ res = .timedOut ∨ res = .poisoned ∨ (res = .badEcrc ∧ s.ecrcCheck = true)
    (bad → ∃ t : State, exec (.doorbellReadDone res block) s = .next t ∧ t.host.dbAsked = false ∧
      t.reg cDoorbellErr = (s.bump cDoorbellErr 1).reg cDoorbellErr ∧ SameRegs s t [cDoorbellErr] ∧ t.pipe = s.pipe ∧
      t.now = (if res = .timedOut then max s.now (s.host.dbAt + 1000 * s.timeoutUs) else s.now) ∧
      t.pwr.aerUe = s.pwr.aerUe ||| (match res with | .poisoned => 0x1000#32 | .timedOut => 0x4000#32 | .badEcrc => 0x80000#32 | _ => 0#32)) ∧
    (¬bad → exec (.doorbellReadDone res block) s = .next ((List.range 64).foldl State.fetchRing
      ((List.range 64).foldl (fun s r => (s.newCi r (fld (block.getD r 0) 63 32)).newPi r (fld (block.getD r 0) 31 0))
        ({ s with host := { s.host with dbAsked := false } } : State).seeWin)))) ∧
  (∀ s : State, (∀ w ∈ s.seeWin.host.win, ∃ i, s.host.win[i]? = some w ∧ s.host.winRead ≤ i) ∧
    ∀ k, s.seeWin.host.win.filter (fun w => w.1 / 2 ^ 36 == k) <:+ s.host.win.filter (fun w => w.1 / 2 ^ 36 == k)) ∧
  (∀ (r : Nat) (entries : List (List W64 × Bool)) (s : State), (s.ring r).asked ≠ 0 →
    ∃ t : State, exec (.ringFetchDone r entries) s = .next t ∧ (t.ring r).buf = (s.ring r).buf ++ entries.take (s.ring r).asked ∧
      (t.ring r).ci = (s.ring r).ci ∧ (t.ring r).pi = (s.ring r).pi ∧ t.regs = s.regs ∧ t.mem = s.mem ∧
      t.pwr.aerUe = (if (entries.take (s.ring r).asked).any (·.2) then s.pwr.aerUe ||| 0x1000#32 else s.pwr.aerUe)) ∧
  (∀ (r : Nat) (v : W64) (s : State), r < 64 → s.rb (rRingCfg r) 32 = true → s.hostUp = true →
    exec (.kickWrite r 0 8 v) s = .next ((s.seeWin.newPi r (fld v 31 0)).fetchRing r)) ∧
  (∀ (off : Nat) (v : W64) (s : State), off % 8 = 0 → off < 0x100000 → fld v 63 48 = 0 → s.rb (rTallyOwner (off / 4096)) 8 = true →
    s.hostUp = true → ∃ t : State, exec (.tallyPageWrite off 8 v) s = .next t ∧ t.tally (off / 8) = s.tally (off / 8) + BitVec.ofNat 48 (fld v 47 0) ∧
      (∀ x, x ≠ off / 8 → t.tally x = s.tally x) ∧ t = { s with pipe := { s.pipe with tally := t.pipe.tally, met := t.pipe.met } }) ∧
  (∀ (r off size : Nat) (v : W64) (s : State), size ≠ 8 ∨ off % 8 ≠ 0 → s.hostUp = true →
    exec (.kickWrite r off size v) s = .next (s.bump cBarAccessErr 1) ∧ exec (.tallyPageWrite off size v) s = .next (s.bump cBarAccessErr 1)) ∧
  (∀ (off size : Nat) (s : State), s.hostUp = true → ∃ t : State, exec (.stackWindowRead off size) s = .next t ∧
    t = { s with host := { s.host with posts := s.host.posts ++ [.unsupported off] }, pwr := { s.pwr with aerUe := s.pwr.aerUe ||| 0x100000#32 } })

/-- What the host does to rings, tallies and windows. -/
def Obligations.HostAccesses : Prop :=
  Sys2Proof.Says.ProducerIndexRule ∧ Sys2Proof.Says.HostTraffic

/-- STACK_WINDOW_WRITE (R225, R388, R389): once window writes have come to the stacks, every byte of the write reads back and no other byte
of the stacks is changed by it (blocks and valid-map words without stored errors, blocks without poison, crossings without errors); whether they have come
before a producer index is visible is free, and bytes beyond a window are dropped (log entry 74, DEDUCED). -/
def Obligations.WindowWritesReadBack : Prop :=
  ∀ (off : Nat) (data : List Byte) (s : State),
    let dpa := (s.reg rStackWinBase).toNat + off
    let w := s.landWin
    s.hostUp = true → off + data.length ≤ 2 ^ 32 → dpa < stackEnd → w.mem.serr = [] → w.mem.vpoison = [] → w.integ.errs = [] → w.integ.cross = [] →
    (∀ b, w.blkPoisoned b = false) →
    ∃ t : State, exec (.stackWindowWrite off data) s = .next t ∧
      (t.host.win = s.host.win ++ [(dpa, data)] ∧ t.mem = s.mem ∨ t.host.win = [] ∧ t = t.landWin) ∧
      (∀ i, i < data.length → t.landWin.dataByte (dpa + i) = data.getD i 0#8) ∧
      (∀ a, a < dpa ∨ dpa + data.length ≤ a → t.landWin.dataByte a = w.dataByte a) ∧ t.mem.tile = s.mem.tile ∧ t.pipe = s.pipe

/-! ### Registers -/

/-- How a write of a register word acts on its fields (R9-R11, R469, R470), for any word: a reserved bit keeps its value; a register of
locked fields alone changes, once set-up is locked, by its RW1C bits only, and a host's write that would change a locked field is a
violation; Chimney's is none, and of a locked field that is not CH its write is dropped without one (log entry 14, DEDUCED, the model's reading). A violation of the host is counted and raises the Snuffer alarm of trigger 1, which leaves no key of its mask (R470, R450, R451). Control words in SRAM are decoded as a write comes (atWrite). -/
def Obligations.RegisterFieldRules : Prop :=
  ∀ (off : Nat) (locked free chim : Bool) (only old new : W64),
    let r := Sys2Proof.Machine.writeWord off locked free chim only old new
    (∀ i, i < 64 → (∀ f ∈ regFields off, i < f.lo ∨ f.hi < i) → fbit r.1 i = fbit old i) ∧
    (only = 0#64 → r = (old, false)) ∧
    (locked = true → (∀ f ∈ regFields off, f.acc = .rw → f.al = false ∧ f.ch = false) →
      r.1 = (regFields off).foldl (fun w f => if f.acc = .rw1c then w &&& ~~~(new &&& only &&& maskW f.hi f.lo) else w) old ∧
      (chim = true → r.2 = false) ∧
      ((∀ f ∈ regFields off, f.acc = .rw → only &&& maskW f.hi f.lo = 0#64) → r.2 = false)) ∧
    (∀ f ∈ regFields off, locked = true → chim = false → f.acc = .rw → f.al = false → f.ch = false → only &&& maskW f.hi f.lo ≠ 0#64 →
      clampField off f (fld ((new &&& only) ||| (old &&& ~~~only)) f.hi f.lo) ≠ fld old f.hi f.lo → r.2 = true) ∧
    (∀ s0 : State, off ∈ [rFrameCtl, rZoneCtl, rIntegCtl, rCfCtl, rSnufferPolicy] → s0.canWrite .host = true →
      let s := s0.atWrite .host off
      let q := s.stored .host off allBits new
      ∃ t : State, exec (.registerWrite .host off 8 new) s0 = .next t ∧ t.reg off = q.1 ∧
        (q.2 = true → t.reg cLockViolation = (s.bump cLockViolation 1).reg cLockViolation ∧ t.rb rSnufferStatus 1 = true ∧
          t.chim.holds (t.rf rSnufferPolicy 6 4) = false) ∧
        (q.2 = false → SameRegs s t [off] ∧ t.chim = s.chim))

/-- Writes of set-up and module registers: the lock and its refusal (R467), a change of period (R32), the cap within its bounds (R46), the
gate mode that waits (R54), abandonment (R278), a clear held pending (R422), a die marked by force, a Corrected event (R242). A field that no table guards stores what is written (log entry 13, DESIGN CHOICE);
a gate mode waits only where the written one differs from the one in force (log entry 16, DESIGN CHOICE); a period change that waits
refuses the lock on a MASTER alone (log entry 17, DEDUCED). -/
def Sys2Proof.Says.SetupWrites : Prop :=
  ∀ (w : Requester) (v : W64) (s0 : State), s0.canWrite w = true →
    (let s := s0.atWrite w rSetupLock
     (s.locked = false → fbit v 0 = true → s.rangeState = 2 ∨ s.rangeState = 3 → s.frame.gateWaits = false →
      (s.rangeState = 3 → s.frame.switch = none) →
      ∃ t : State, exec (.setupLock w v) s0 = .next t ∧ t.locked = true ∧ t.fab.lockedAs = (s.member, s.rf rRangeCtl 14 10) ∧
        t.chim.lockMeas.isSome = true ∧ SameRegs s t [rSetupLock]) ∧
     (s.locked = false → fbit v 0 = true →
        s.rangeState = 0 ∨ s.rangeState = 1 ∨ s.frame.gateWaits = true ∨ (s.rangeState = 3 ∧ s.frame.switch ≠ none) →
      ∃ t : State, exec (.setupLock w v) s0 = .next t ∧ t.locked = false ∧ t.rb rSetupLock 1 = true ∧ SameRegs s t [rSetupLock])) ∧
    (let s := s0.atWrite w rStokeSwitchFrame
     let p := s.rf rStokePeriodNext 12 0
     let f := fld v 47 0
     (s.rangeState = 0 ∨ s.rangeState = 3 → 50 ≤ p → p ≤ 5000 → s.frameNo + 4 ≤ f →
       ∃ t : State, exec (.stokeSwitchFrame w v) s0 = .next t ∧ t.frame.switch = some (p, f)) ∧
     (s.rangeState = 1 ∨ s.rangeState = 2 ∨ p < 50 ∨ 5000 < p ∨ f < s.frameNo + 4 →
       ∃ t : State, exec (.stokeSwitchFrame w v) s0 = .next t ∧ t.frame.switch = s.frame.switch ∧ t.rb rStokePeriod 16 = true)) ∧
    (let s := s0.atWrite w rPowerCtl
     let top := if s.frame.legacy then 2000 else 2800
     ∃ t : State, exec (.powerCap w v) s0 = .next t ∧ t.rf rPowerCtl 11 0 = max 1000 (min top (fld v 11 0)) ∧
       (fld v 11 0 < 1000 ∨ top < fld v 11 0 → t.rb rPowerCtl 32 = true)) ∧
    (let s := s0.atWrite w rPowerCtl
     s.locked = false →
      ∃ t : State, exec (.gateMode w v) s0 = .next t ∧ t.rb rPowerCtl 40 = fbit v 40 ∧ t.frame.gateWaits = (fbit v 40 != s.frame.legacy) ∧
        t.frame.legacy = s.frame.legacy) ∧
    (let s := s0.atWrite w rStepAbandon
     s.stepOpenB (fld v 7 0) = true → exec (.stepAbandon w v) s0 = .next ((s.stopDomain (fld v 7 0) []).abandon (fld v 7 0))) ∧
    (let s := s0.atWrite w rFaultClear
     s.faulted (fld v 7 0) = true →
      ∃ t : State, exec (.faultClear w v) s0 = .next t ∧ (∀ c, c ∈ t.flt.clears ↔ (c ∈ s.flt.clears ∧ c.1 ≠ fld v 7 0) ∨ c = (fld v 7 0, fbit v 8)) ∧
        t.regs = s.regs) ∧
    (∀ k, w = .chimney → k < 24 → fld v 4 0 < 18 → let s := s0.atWrite w (rDieFailForce k)
      s.marked k = none →
      ∃ t : State, exec (.dieFailForce k v) s0 = .next t ∧ t.marked k = some (fld v 4 0) ∧ (k, fld v 4 0) ∈ t.chim.dies ∧
        SameRegs s t (rDieFailed k :: Says.minorRegs) ∧ t.reg cFaultCe = (s.bump cFaultCe 1).reg cFaultCe)

/-- Writes that hand out tiles, domains and contexts: an owner takes a tile whose store is zeroed (R214), unless work is on it or on its twin beside it; a domain is
enabled after the lock alone, with its map pending where it has one (R283, R466), and disabled when nothing of it is in flight (R475); a
table root lies in the stacks (R215); a context is enabled under its conditions with every credit free (R159, R171, R478); an epoch advances
and empties its queue (R180). The store reads as zeros from the write on (log entry 71, DEDUCED). -/
def Sys2Proof.Says.DomainWrites : Prop :=
  ∀ (w : Requester) (v : W64) (s0 : State), s0.canWrite w = true →
    (∀ die tile, die < 2 → tile < 48 → let k := 48 * die + tile
      let s := s0.atWrite w (rTileDomain k)
      (s.runs.any (fun r => s.occupies r k) = false → (s.queue k).ents = [] → s.rb (rTwinCtl (fld v 7 0)) 0 = false →
        s.rb (rTwinCtl (s.tileOwner (pairOf k))) 0 = false →
        ∃ t : State, exec (.tileDomain w die tile v) s0 = .next t ∧ t.tileOwner k = fld v 7 0 ∧
          (fld v 7 0 ≠ s.tileOwner k → t.mem = s.mem.zeroTile k ∧ k ∈ t.tiles.zeroing)) ∧
      (s.runs.any (fun r => s.occupies r k) = true ∨ (s.queue k).ents ≠ [] →
        ∃ t : State, exec (.tileDomain w die tile v) s0 = .next t ∧ t.tileOwner k = s.tileOwner k ∧ t.rb (rTileDomain k) 8 = true ∧ t.mem = s.mem)) ∧
    (∀ d, d < 256 → let s := s0.atWrite w (rDomCtl d)
      (fbit v 0 = true → s.domOn d = false → s.rb (rDomCtl d) 1 = false →
        (s.locked = false → ∃ t : State, exec (.domainEnable w d v) s0 = .next t ∧ t.domOn d = false ∧ t.rb (rDomCtl d) 8 = true) ∧
        (s.locked = true → s.reg (rUpdMapBase d) = 0#64 → ∃ t : State, exec (.domainEnable w d v) s0 = .next t ∧ t.domOn d = true ∧
          t.rb (rDomCtl d) 1 = false ∧ SameRegs s t [rDomCtl d]) ∧
        (s.locked = true → s.reg (rUpdMapBase d) ≠ 0#64 → ∃ t : State, exec (.domainEnable w d v) s0 = .next t ∧ t.domOn d = false ∧
          t.rb (rDomCtl d) 1 = true ∧ SameRegs s t [rDomCtl d])) ∧
      (fbit v 0 = false → s.domOn d = true →
        (s.domBusy d = false → s.stepState d = 0 → ∃ t : State, exec (.domainDisable w d v) s0 = .next t ∧ t.domOn d = false ∧
          t.rb (rDomCtl d) 1 = false ∧ t.pmap d = none ∧ SameRegs s t [rDomCtl d]) ∧
        (s.domBusy d = true ∨ s.stepState d ≠ 0 → ∃ t : State, exec (.domainDisable w d v) s0 = .next t ∧ t.domOn d = true ∧
          t.rb (rDomCtl d) 8 = true ∧ SameRegs s t [rDomCtl d]))) ∧
    (∀ d, d < 256 → let s := s0.atWrite w (rPtRoot d)
      (s.domOn d = false → s.rb (rDomCtl d) 1 = false →
        (fld v 40 16 * 2 ^ 16 < stackEnd → ∃ t : State, exec (.ptRoot w d v) s0 = .next t ∧ t.rf (rPtRoot d) 40 16 = fld v 40 16 ∧
          SameRegs s t [rPtRoot d]) ∧
        (stackEnd ≤ fld v 40 16 * 2 ^ 16 → ∃ t : State, exec (.ptRoot w d v) s0 = .next t ∧ t.reg (rPtRoot d) = s.reg (rPtRoot d) ∧
          t.rb (rDomCtl d) 8 = true))) ∧
    (∀ c, c < 64 → fbit v 0 = true → let s := s0.atWrite w (rRouteCtl c)
      s.ctxOn c = false →
      let x := (s.stored w (rRouteCtl c) allBits v).1
      (s.ctxEnableOk c x = true → ∃ t : State, exec (.routeCtlEnable w c v) s0 = .next t ∧ t.ctxOn c = true ∧ t.ctxDom c = fld v 15 8 ∧
        t.experts c = fld v 24 16 ∧ (t.ctx c).credits = s.aqSlots c ∧ (t.ctx c).queue = [] ∧ (t.ctx c).held = [] ∧ (t.ctx c).load = []) ∧
      (s.ctxEnableOk c x = false → ∃ t : State, exec (.routeCtlEnable w c v) s0 = .next t ∧ t.ctxOn c = false ∧ t.rb (rRouteCtl c) 31 = true)) ∧
    (∀ c, c < 64 → fbit v 0 = true → let s := s0.atWrite w (rRouteCtl c + 0x20)
      (s.ctx c).pend = 0 → (s.ctx c).held.any (fun h => h.2.1 == (s.epoch c + 1) % 65536) = false →
      ∃ t : State, exec (.epochAdvance w c v) s0 = .next t ∧ t.epoch c = (s.epoch c + 1) % 65536 ∧ (t.ctx c).queue = [] ∧
        (t.ctx c).credits = (s.ctx c).credits + (s.ctx c).queue.length)

/-- Register writes that set the module up and hand out its parts. -/
def Obligations.SetupAndDomainWrites : Prop :=
  Sys2Proof.Says.SetupWrites ∧ Sys2Proof.Says.DomainWrites

/-- Writes of the fabric and of the host interface: groups, streams, rings, tally blocks, ports, channels and the range take their
configuration, or report its error (R334, R359, R394, R408, R461-R464, R479, R480); a mailbox request waits for Chimney as it was submitted, and a second one is ignored (R440, R481). A strapped master's MASTER_EN takes no write, and a write
that would change nothing else is no violation (R470). What an enable keeps is log entry 17 (DEDUCED), and what PORT_CFG and RANGE_CTL do after the lock log entry 18 (DESIGN
CHOICE). -/
def Sys2Proof.Says.FabricWrites : Prop :=
  ∀ (w : Requester) (v : W64) (s0 : State), s0.canWrite w = true →
    (∀ k e, k < 64 → fbit v 24 = true → let s := s0.atWrite w (rCgroupCtl k)
      s.rb (rCgroupCtl k) 24 = false →
      let s1 := (s.setReg (rCgroupCtl k) (s.stored w (rCgroupCtl k) allBits v).1).setRb (rCgroupCtl k) 24 false
      let n := s1.rf (rCgroupCtl k) 18 8
      let x := (s1.upsets e).mapRead e (s1.groupDom k) ((s1.reg (rCgroupList k)).toNat) (4 * n) 7
      (∀ c bad, x.2 = .fail c bad →
        exec (.cgroupEnable w k v e) s0 = .next ((if bad then x.1.snuffer 2 else x.1).setRb (rCgroupCtl k) 25 true)) ∧
      ∀ (u : State) (bs : List Byte), x = (u, .ok bs) →
        let ms := (List.range n).map (fun i => leNat ((bs.drop (4 * i)).take 4))
        (1 ≤ n → n ≤ 1024 → (ms.filter (· == s.member)).length = 1 →
          ∃ t : State, exec (.cgroupEnable w k v e) s0 = .next t ∧ t.rb (rCgroupCtl k) 24 = true ∧ t.groupList k = ms ∧
            t.rf (rCgroupSeq k) 15 0 = 0) ∧
        (n = 0 ∨ 1024 < n ∨ (ms.filter (· == s.member)).length ≠ 1 →
          ∃ t : State, exec (.cgroupEnable w k v e) s0 = .next t ∧ t.rb (rCgroupCtl k) 25 = true ∧ t = u.setRb (rCgroupCtl k) 25 true)) ∧
    (∀ k, k < 64 → fbit v 24 = false → let s := s0.atWrite w (rCgroupCtl k)
      s.rb (rCgroupCtl k) 24 = true →
      s.runs.any (fun r => r.cmd.isCollective && r.cmd.group == k) = false →
      s.pipe.queues.any (fun q => q.2.ents.any (fun h => h.cmd.isCollective && h.cmd.group == k)) = false →
      ∃ t : State, exec (.cgroupDisable w k v) s0 = .next t ∧ t.rb (rCgroupCtl k) 24 = false ∧ SameRegs s t [rCgroupCtl k]) ∧
    (∀ n, n < 1024 → fbit v 16 = true → let s := s0.atWrite w (rStreamCfg n)
      s.rb (rStreamCfg n) 16 = false →
      let ok := fld v 14 9 < 48 ∧ s.tileOwner (48 * fld v 8 8 + fld v 14 9) = fld v 7 0 ∧ (fld v 34 24 + fld v 43 36 + 1) * 4096 ≤ tileBytes
      (ok → ∃ t : State, exec (.streamEnable w n v) s0 = .next t ∧ t.rb (rStreamCfg n) 16 = true ∧ t.reg (rStreamBytes n) = 0#64 ∧
        (t.stream n).free = (fld v 43 36 + 1) * 4096 ∧ (t.stream n).got = []) ∧
      (¬ok → ∃ t : State, exec (.streamEnable w n v) s0 = .next t ∧ t.rb (rStreamCfg n) 16 = false ∧ t.rb (rStreamCfg n) 63 = true)) ∧
    (∀ r, r < 64 → fbit v 0 = true → let s := s0.atWrite w (rRingCfg r)
      s.rb (rRingCfg r) 0 = false →
      (s.rb (rCplCfg (fld v 29 24)) 0 = true → s.rf (rCplCfg (fld v 29 24)) 15 8 = fld v 15 8 →
        ∃ t : State, exec (.ringEnable w r v) s0 = .next t ∧ t.rb (rRingCfg r) 0 = true ∧ t.ringState r = 1 ∧ t.ringDom r = fld v 15 8 ∧
          t.ringCpl r = fld v 29 24 ∧ t.ring r = {}) ∧
      (s.rb (rCplCfg (fld v 29 24)) 0 = false ∨ s.rf (rCplCfg (fld v 29 24)) 15 8 ≠ fld v 15 8 →
        ∃ t : State, exec (.ringEnable w r v) s0 = .next t ∧ t.rb (rRingCfg r) 0 = false ∧ t.rb (rRingCfg r) 63 = true)) ∧
    (∀ r, r < 64 → fbit v 0 = false → let s := s0.atWrite w (rRingCfg r)
      s.rb (rRingCfg r) 0 = true →
      ∃ t : State, exec (.ringDisable w r v) s0 = .next t ∧ t.rb (rRingCfg r) 0 = false ∧ t.ringState r = 0 ∧ (t.ring r).buf = [] ∧
        (t.ring r).asked = 0) ∧
    (∀ c, c < 64 → fbit v 0 = true → let s := s0.atWrite w (rCplCfg c)
      s.rb (rCplCfg c) 0 = false →
      ∃ t : State, exec (.cplRingEnable w c v) s0 = .next t ∧ t.rb (rCplCfg c) 0 = true ∧ t.cplState c = 1 ∧ t.cpl c = {}) ∧
    (∀ b, b < 256 → let s := s0.atWrite w (rTallyOwner b)
      (s.tallyNamed b = false → ∃ t : State, exec (.tallyOwner w b v) s0 = .next t ∧ t.rf (rTallyOwner b) 7 0 = fld v 7 0 ∧
        t.rb (rTallyOwner b) 8 = fbit v 8 ∧
        (∀ x, x / 512 = b → t.tally x = 0#48) ∧ (∀ x, x / 512 ≠ b → t.tally x = s.tally x)) ∧
      (s.tallyNamed b = true → ∃ t : State, exec (.tallyOwner w b v) s0 = .next t ∧ t.rb (rTallyOwner b) 63 = true ∧ t.pipe = s.pipe)) ∧
    (∀ p, p < 18 → let s := s0.atWrite w (rPortCfg p)
      s.locked = false → ∃ t : State, exec (.portCfg w p v) s0 = .next t ∧ t.rb (rPortCfg p) 0 = fbit v 0 ∧
      (if s.pwr.pkg = .released then t.portState p = (if fbit v 0 then 1 else 0) ∧ (t.port p).retry = [] else t.reg (rPortStatus p) = s.reg (rPortStatus p)) ∧ SameRegs s t [rPortCfg p, rPortStatus p]) ∧
    (let s := s0.atWrite w rRangeCtl
     (s.locked = false → fbit v 16 = true → ∃ t : State, exec (.masterEnable w v) s0 = .next t ∧ t.rangeState = 3 ∧ t.member = fld v 9 0 ∧
      SameRegs s t [rRangeCtl, rRangeStatus]) ∧
     (s.locked = false → s.pwr.masterSel = false → fbit v 16 = false → fbit v 15 = true →
      ∃ t : State, exec (.rangeJoin w v) s0 = .next t ∧ t.rangeState = 1 ∧ t.member = fld v 9 0 ∧ t.rf rRangeCtl 14 10 = fld v 14 10 ∧
        t.fab.joining = none ∧ SameRegs s t [rRangeCtl, rRangeStatus]) ∧
     (s.locked = true → s.rangeState = 0 → s.pwr.masterSel = false → (fld v 9 0, fld v 14 10) = s.fab.lockedAs → fbit v 15 = true → fbit v 16 = false →
      ∃ t : State, exec (.rangeJoin w v) s0 = .next t ∧ t.rangeState = 1 ∧ SameRegs s t [rRangeStatus]) ∧
     (s.locked = true → s.pwr.masterSel = true → v ||| maskW 16 16 = s.reg rRangeCtl →
      ∃ t : State, exec (.masterEnable w v) s0 = .next t ∧ SameRegs s t [] ∧ t.chim = s.chim)) ∧
    (∀ c, c < 8 → let s := s0.atWrite w (rVcCfg c)
      s.locked = false →
      let sum := ((List.range 8).map (fun i => if i = c then fld v 13 0 else s.rf (rVcCfg i) 13 0)).sum
      (sum ≤ 12288 → ∃ t : State, exec (.vcCfg w c v) s0 = .next t ∧ t.rf (rVcCfg c) 13 0 = fld v 13 0 ∧ t.vcWeight c = max 1 (fld v 19 16) ∧
        SameRegs s t [rVcCfg c]) ∧
      (12288 < sum → ∃ t : State, exec (.vcCfg w c v) s0 = .next t ∧ t.rb rCfCtl 16 = true ∧ SameRegs s t [rCfCtl])) ∧
    (fbit v 16 = true → let s := s0.atWrite w rMbxCtl
      (s.rb rMbxCtl 17 = false → ∃ t : State, exec (.mailboxRequest w v) s0 = .next t ∧ t.rb rMbxCtl 17 = true ∧
        t.chim.mbx = some ((wordsBytes ((List.range 32).map (fun i => s.reg (rMbxReq + 8 * i)))).take (fld v 8 0)) ∧
        t.rf rMbxCtl 8 0 = fld v 8 0 ∧ SameRegs s t [rMbxCtl]) ∧
      (s.rb rMbxCtl 17 = true → ∃ t : State, exec (.mailboxRequest w v) s0 = .next t ∧ t.rb rMbxCtl 19 = true ∧ t.chim = s.chim ∧
        t.rf rMbxCtl 8 0 = s.rf rMbxCtl 8 0))

/-- REGISTER_WRITE (R10, R473): an aligned 8-byte write acts on its word; a 4-byte write of a low half is held and changes no register; the
high half at the same word writes both, a write of another register loses it; a 4-byte register, an entry of DRAUGHT_BIAS (Table RG-6) or a dword of the MSI-X table, is written at once; a requester that may not write changes nothing. A field that nothing guards takes its value. A write before its requester's port is there changes nothing (log entry 12, the model's reading), each requester holds one low half (log entry 15, DESIGN CHOICE), and bits [15:8] of AQ_CFG are held 0 (log entry 107, DEDUCED). -/
def Sys2Proof.Says.PlainWrites : Prop :=
  ∀ (w : Requester) (v : W64) (s : State),
    (s.canWrite w = false → ∀ off size, exec (.registerWrite w off size v) s = .next s) ∧
    (s.canWrite w = true →
      (∀ off, off % 8 = 0 → exec (.registerWrite w off 8 v) s = .next ((s.atWrite w off).writeReg w off allBits v {})) ∧
      (∀ off, (s.loseHeld w off).held w = (s.held w).filter (fun h => h.1 == off)) ∧
      (s.integ.errs = [] → ∀ off, s.atWrite w off = s.loseHeld w off) ∧
      (∀ off, off % 8 = 0 → twoRegs off = false → ∃ t : State, exec (.registerWrite w off 4 v) s = .next t ∧ t.held w = some (off, fld v 31 0) ∧ t.regs = s.regs ∧
        t.mem = s.mem) ∧
      (s.held w = none → let u := (s.setHeld w none).seeSram .module
        (∀ c e, c < 64 → e < 256 → u.ctxOn c = false →
          ∃ t : State, exec (.registerWrite w (rCtx c + 0x400 + 4 * e) 4 v) s = .next t ∧ t.bias c e = BitVec.ofNat 32 (fld v 31 0) ∧
            (∀ e', e' < 256 → e' ≠ e → t.bias c e' = u.bias c e') ∧ (s.integ.errs = [] → t.held w = none)) ∧
        (∀ e k, e < 256 → k < 2 → let o := rMsixTable + 16 * e
          ∃ t : State, exec (.registerWrite w (o + 4 * k) 4 v) s = .next t ∧
            t.reg o = (u.stored w o (if k = 0 then lowHalf else highHalf) (BitVec.ofNat 64 (fld v 31 0 * 2 ^ (32 * k)))).1 ∧
            SameRegs u t [o])) ∧
      (∀ c, c < 64 → let u := s.atWrite w (rAqCfg c)
        u.ctxOn c = false → ∃ t : State, exec (.registerWrite w (rAqCfg c) 8 v) s = .next t ∧
        t.aqBase c = fld v 30 16 * 2 ^ 16 ∧ t.aqTile c = 48 * fld v 0 0 + fld v 6 1 ∧ SameRegs u t [rAqCfg c]) ∧
      (∀ off lo, off % 8 = 0 → s.held w = some (off, lo) →
        exec (.registerWrite w (off + 4) 4 v) s =
          .next (((s.setHeld w none).seeSram .module).writeReg w off allBits (BitVec.ofNat 64 (fld v 31 0 * 2 ^ 32 + lo)) {})) ∧
      (∀ d, d < 256 → let u := s.atWrite w (rDescTblLen d)
        (u.domOn d = false → u.rb (rDomCtl d) 1 = false → ∃ t : State, exec (.registerWrite w (rDescTblLen d) 8 v) s = .next t ∧
          t.rf (rDescTblLen d) 15 0 = fld v 15 0 ∧ SameRegs u t [rDescTblLen d]) ∧
        (u.domOn d = true → ∃ t : State, exec (.registerWrite w (rDescTblLen d) 8 v) s = .next t ∧ ∀ a, t.reg a = u.reg a)))

/-- Register writes of the fabric and the host interface, and plain ones. -/
def Obligations.FabricAndPlainWrites : Prop :=
  Sys2Proof.Says.FabricWrites ∧ Sys2Proof.Says.PlainWrites

/-- Supplies and start-up (chapter 17): each event in its place moves the module on: auxiliary power, the held phase, which a failed self-test of a decoder ends (R258), release with the
strap, the first stoke, the link, BAR0. Factory images verify (log entry 32, PRESUMED), and events out of their place change nothing (log entry 7, DESIGN CHOICE).
The first stoke comes with the lock of the frame reference and leaves FRAME_NUMBER as it is (log entry 76, DEDUCED). Of configuration space a write is kept, and the dwords of the BARs and of
the capabilities have the standard's fields (log entry 34, PRESUMED): a write that leaves D3hot makes a level-2 reset, and one of Message Control masks
and unmasks the vectors (R385, R414, Table SU-1). -/
def Sys2Proof.Says.StartUp : Prop :=
  (∀ s : State, s.pwr.aux = false → ∃ t : State, exec .inputPowerOn s = .next t ∧ t.pwr.aux = true ∧ t.pwr.pkg = .off ∧ t.chim.running = true ∧
    t.rf rResetCause 2 0 = 1 ∧ t.mem = {} ∧ t.pending = s.pending) ∧
  (∀ s : State, s.mayPower = true → (∀ k ∈ [2, 3, 4, 5], s.chim.compOk s.chim.active k = true) →
    ∃ t : State, exec (.packagePowerUp {}) s = .next t ∧ t.pwr.pkg = .ready ∧ t.chim.pkgBank = s.chim.active) ∧
  (∀ (o : PowerUp) (s : State), s.mayPower = true → (∀ k ∈ [2, 3, 4, 5], s.chim.compOk s.chim.active k = true) → o.railFails < 2 →
    (∃ x ∈ o.selfTest, testFails x.1 x.2.1 x.2.2 = true) → ∃ t : State, exec (.packagePowerUp o) s = .next t ∧ t.pwr.pkg = .held) ∧
  (∀ (b : Bool) (s : State), s.pwr.pkg = .ready → ∃ t : State, exec (.packageResetRelease b) s = .next t ∧ t.pwr.pkg = .released ∧
    t.pwr.masterSel = b ∧ t.rb rRangeCtl 16 = b ∧ ∀ p, p < 18 → s.rb (rPortCfg p) 0 = true → t.portState p = 1) ∧
  (∀ s : State, s.pwr.pkg = .released → s.frame.locked = false → ∃ t : State, exec .frameReferenceLock s = .next t ∧ t.frame.locked = true ∧
    t.pwr.stoked = true ∧ t.frame.stokeAt = s.now ∧ t.frameNo = s.frameNo ∧ t.stokeOut = true ∧
    (s.pwr.masterSel = true → t.rangeState = 3) ∧ (s.flt.fatal = true → t.rf rEmberStatus 1 0 = 2) ∧ t.frame.damper.pool = s.poolOf (s.rf rPowerCtl 11 0) (s.rf rStokePeriod 12 0)) ∧
  (∀ s : State, s.pwr.pkg = .released → ∃ t : State, exec .pcieLinkUp s = .next t ∧ t = { s with pwr := { s.pwr with pcieUp := true } }) ∧
  (∀ s : State, s.pwr.pcieUp = true → ∃ t : State, exec .bar0Ready s = .next t ∧ t = { s with pwr := { s.pwr with bar0 := true } }) ∧
  (∀ (wr : Bool) (off : Nat) (v : W32) (s : State), s.pwr.pcieUp = true →
    (s.pwr.bar0 = false → exec (.configurationRequest wr off v) s = .next (s.post (.cfg true 0#32))) ∧
    (s.pwr.bar0 = true → wr = true →
      let x := v.toNat % 4
      let toD0 := s.pwr.d3 = true ∧ off = Config.pmCap + 4 ∧ x = 0
      (toD0 → ∃ t u : State, exec (.configurationRequest wr off v) s = .next t ∧ t = u.level2.post (.cfg false 0#32) ∧
        u.pwr.d3 = false ∧ u = { s with pwr := u.pwr }) ∧
      (¬toD0 → ∃ t u : State, exec (.configurationRequest wr off v) s = .next t ∧ t = u.post (.cfg false 0#32) ∧
        Tab.get w32Reset t.pwr.cfg off = v ∧
        t.pwr.d3 = (if off = Config.pmCap + 4 ∧ (x = 0 ∨ x = 3) then x == 3 else s.pwr.d3) ∧
        t.pwr.aerUe = (if off = Config.aerCap + 4 then s.pwr.aerUe &&& ~~~v else s.pwr.aerUe) ∧
        t.pwr.msixOn = (if off = Config.msixCap then v.getLsbD 31 else s.pwr.msixOn) ∧
        t.pwr.msixMask = (if off = Config.msixCap then v.getLsbD 30 else s.pwr.msixMask) ∧
        (off ≠ Config.msixCap → t = { s with pwr := t.pwr, host := { s.host with posts := s.host.posts ++ [.cfg false 0#32] } }) ∧
        (∀ n, n < 256 → s.masked n = true → u.masked n = false → s.pbaBit n = true → Tab.get boolReset s.host.immediate n = false →
          u.pbaBit n = false))) ∧
    (s.pwr.bar0 = true → wr = false → ∃ (t : State) (x : W32), exec (.configurationRequest wr off v) s = .next t ∧
      t = s.post (.cfg false x) ∧ (off = Config.aerCap + 4 → off ≠ Config.pcieCap + 4 → off ≠ Config.pcieCap + 8 → off ≠ Config.pcieCap + 0x0C →
        off ≠ Config.pcieCap + 0x24 → off ≠ Config.pmCap + 4 → barDword off (Tab.get w32Reset s.pwr.cfg off) = none → x = s.pwr.aerUe) ∧
      (∀ b, barDword off (Tab.get w32Reset s.pwr.cfg off) = some b → x = b)))

/-- Reset and loss of power (R434, R436, R454-R458, Table SU-2): a reset pin empties everything of the package, notes its cause and keeps what
Chimney holds; a level-2 reset resets the fields so marked and the rings, and the domains of enabled command rings take a Contained fault each, in ascending
order (R419, R458); an input loss, in any state of the rails, or a rail fault is Fatal (source 53) and turns the rails off until its own end; the loss of auxiliary power takes every
key and leaves the flash. What outlasts a reset unsaid is log entry 28 (DEDUCED). -/
def Sys2Proof.Says.Resets : Prop :=
  (∀ s : State, s.pwr.aux = true → s.pwr.pkg ≠ .off → ∀ i n, (i = Instr.resetNAssert ∧ n = 2) ∨ (i = .perstNAssert ∧ n = 3) →
    ∃ t : State, exec i s = .next t ∧ t.pwr.pkg = .inReset ∧ t.rf rResetCause 2 0 = n ∧ t.mem = {} ∧ t.pipe = {} ∧ t.fab = {} ∧
      t.frame = {} ∧ t.runs = [] ∧ t.upd = {} ∧ t.integ = { errs := s.integ.errs.filter (fun r => r.1.1 == .chimney) } ∧
      SameRegs State.reset t [rResetCause] ∧ t.chim = { s.chim with mbx := none, lockMeas := none } ∧
      t.pending = s.pending) ∧
  (∀ s : State, s.RegsWf →
    ∃ (u : State) (ds : List Nat) (ev : Ev), exec .level2Reset s = .next s.level2 ∧ s.level2 = (ds.foldl (fun s d => s.contained d ev []) u) ∧ ev.src = 26 ∧
      (∀ d, d ∈ ds ↔ ∃ r, r < 64 ∧ s.rb (rRingCfg r) 0 = true ∧ s.ringDom r = d) ∧ ds.Pairwise (· < ·) ∧
      u.pipe.rings = [] ∧ u.pipe.cpls = [] ∧ u.pwr.cfg = [] ∧ u.pwr.d3 = false ∧ u.pwr.msixOn = false ∧ u.mem = s.mem ∧ u.runs = s.runs ∧
      (∀ a, s.reg a ≠ regReset a → u.reg a = regLevel2 a (s.reg a)) ∧ (∀ a, s.reg a = regReset a → u.reg a = s.reg a)) ∧
  (∀ s : State, s.pwr.aux = true →
    ∃ (t : State) (ev : Ev), exec .inputUndervoltage s = .next t ∧ ev.src = 53 ∧ ev.detail = 2 ∧ t = (s.fatal ev).railsOff false true ∧
      t.pwr.pkg = .off ∧ t.pwr.waitInput = true ∧ t.mem = {} ∧ t.pipe = {}) ∧
  (∀ (s : State) (z : Nat), s.pwr.pkg ≠ .off →
    ∃ (t : State) (ev : Ev), exec (.railFault z) s = .next t ∧ ev.src = 53 ∧ ev.detail = 3 + 256 * z ∧ t = (s.fatal ev).railsOff true false ∧
      t.pwr.pkg = .off ∧ t.pwr.waitReset = true ∧ t.mem = {} ∧ t.pipe = {}) ∧
  (∀ s : State, s.pwr.waitInput = true → ∃ t : State, exec .powerRestored s = .next t ∧ t.pwr.waitInput = false ∧ t.rf rResetCause 2 0 = 4 ∧
    SameRegs s t [rResetCause]) ∧
  (∀ s : State, ∃ t : State, exec .auxPowerLoss s = .next t ∧ t.pwr = {} ∧ t.chim.running = false ∧ t.chim.jobKeys = [] ∧ t.chim.idKey = none ∧
    t.chim.sessions = [] ∧ t.chim.buf = [] ∧ (s.chim.buf = [] → t.chim.log = s.chim.log) ∧ t.chim.health = s.chim.health ∧
    t.chim.active = s.chim.active ∧ t.mem = {} ∧ t.regs = [])

/-- Supplies, start-up and reset. -/
def Obligations.StartUpAndReset : Prop :=
  Sys2Proof.Says.StartUp ∧ Sys2Proof.Says.Resets

/-- Chimney's own conditions (R435, R436, R445-R447): a snapshot is kept, and a junction at or above the threshold of the configuration area (110 degrees at reset, ResetValues) is Fatal, as is a coolant inlet that has been too hot for the time of Table MG-4; a Fatal
condition stops service; a start that is not marked healthy in time goes back to the bank before it; new firmware that marks itself healthy
stays; an address that the bus assigns is kept. Security versions rise as new firmware marks itself healthy (log entry 38, DEDUCED). -/
def Sys2Proof.Says.ChimneyConditions : Prop :=
  (∀ (l : List (Nat × Int)) (s : State), s.answers = true →
    ∃ t : State, exec (.sensorSnapshot l) s = .next t ∧ t.chim.snap = l ∧ t.chim.snapAt = s.uptime ∧
      let read := fun i => ((l.find? (fun r => r.1 == i)).map (·.2)).getD 0
      let hot := s.chim.limits.coolantHot < read 94
      let due := ∃ t0, s.chim.hotSince = some (t0, false) ∧ t0 + s.chim.limits.coolantS * 1000000000 ≤ s.now
      ((∀ i, i < 94 → read i < s.chim.limits.junction) → ¬(hot ∧ due) → t.flt = s.flt ∧ t.regs = s.regs ∧
        (¬hot → t.chim.hotSince = none) ∧ (hot → s.chim.hotSince = none → t.chim.hotSince = some (s.now, false))) ∧
      (hot ∧ due → t.flt.fatal = true) ∧
      ((∃ i, i < 94 ∧ s.chim.limits.junction ≤ read i) → t.flt.fatal = true)) ∧
  (∀ (code site : Nat) (s : State), s.answers = true → 1 ≤ code → code ≤ 5 →
    ∃ t : State, exec (.chimneyFatalCondition code site) s = .next t ∧ t.flt.fatal = true) ∧
  (∀ (t0 old : Nat) (s : State), s.pwr.aux = true → s.chim.probation = some (t0, old) → s.chim.compOk old 1 = true →
    ∃ t : State, exec .firmwareHealthTimeout s = .next t ∧ t.chim.active = old ∧ t.chim.runs = old ∧ t.chim.probation = none ∧
      t.now = max s.now (t0 + 5000000000) ∧ t.chim.upAt ≤ t.now + 1000000000) ∧
  (∀ (s : State) (x : Nat × Nat), s.chim.probation = some x → s.awake = true → ∃ t : State, exec .markHealthy s = .next t ∧ t.chim.probation = none ∧
    t.chim.active = s.chim.active ∧ (∀ k, k ≠ 1 → Tab.get natReset t.chim.svn k = Tab.get natReset s.chim.svn k) ∧
    Tab.get natReset s.chim.svn 1 ≤ Tab.get natReset t.chim.svn 1) ∧
  (∀ (port addr : Nat) (s : State), port < 2 → addr < 128 → s.awake = true →
    ∃ t : State, exec (.dynamicAddressAssignment port addr) s = .next t ∧ Tab.get natReset t.chim.i3c port = addr ∧
      t = { s with chim := { s.chim with i3c := t.chim.i3c } })

/-- One answer of Chimney goes to the requester, of a message type and a status, a vendor-defined one with the module's PCI vendor ID; no register and no memory changes. -/
def Sys2Proof.Says.Answered (i : Instr) (s t : State) (ep : Peer) (ty status : Nat) : Prop :=
  exec i s = .next t ∧ t.regs = s.regs ∧ t.mem = s.mem ∧ t.flt = s.flt ∧
  ∃ m : Msg, t.chim.out = s.chim.out ++ [m] ∧ m.ep = ep ∧ m.ty = ty ∧ m.status = status ∧ (ty = 0x7E → m.vendor = some Config.pciVendorId)

/-- Management messages (R437, R439, R445, R452): while a request of an endpoint is in progress another gets status 4; endpoint discovery, the firmware update from its request to its activation (for an update that
leaves Chimney's own image alone) or its ends (cancelled, a failed check, a failure to write flash), the versions of the banks. Only the bus owner assigns the endpoint ID, and PLDM has the types 0 and 5 and no others. The messages' standard checks are log entry 35 (PRESUMED), the operand bytes and codes of MCTP and PLDM log entry 30 (PRESUMED). -/
def Sys2Proof.Says.FirmwareMessages : Prop :=
  (∀ (ep : Peer) (s : State) (body : List Byte), s.awake = true → s.busy ep = true → ∃ t : State, Says.Answered (.mctpControl ep body) s t ep 0x00 4 ∧
    t.chim.eids = s.chim.eids) ∧
  ∀ (ep : Peer) (s : State), s.awake = true → s.busy ep = false →
    (∀ body : List Byte, let n := fun i => (body.getD i 0).toNat
      ∃ t : State, Says.Answered (.mctpControl ep body) s t ep 0x00 (if n 1 = 1 ∧ ep.eid ≠ 0 then 1 else 0) ∧
        (n 1 = 1 → n 2 % 4 < 2 → ep.eid = 0 → Tab.get natReset t.chim.eids ep.bind.no = n 3) ∧
        (ep.eid ≠ 0 → t.chim.eids = s.chim.eids) ∧
        (n 1 = 5 → (t.chim.out.getLast?.map (·.items)) = some [0x00, 0x01, 0x05, 0x06, 0x7E])) ∧
    (∀ body : List Byte, s.answers = true → let n := fun i => (body.getD i 0).toNat
      let known := n 1 % 64 = 0 ∨ n 1 % 64 = 5
      ∃ t : State, Says.Answered (.pldmBase ep body) s t ep 0x01 (if known then (if n 2 = 5 ∧ n 3 ≠ 0 ∧ n 3 ≠ 5 then 0x83 else 0) else 5) ∧
        (known → n 2 = 4 → (t.chim.out.getLast?.map (·.items)) = some [0, 5])) ∧
    (s.chim.update = none → ∃ t : State, Says.Answered (.requestUpdate ep) s t ep 0x01 0 ∧ t.chim.update = some { ep }) ∧
    (∀ u, s.chim.updateOf ep = some u →
      let b := 1 - s.chim.active
      (∀ comp img, 1 ≤ comp → comp ≤ 5 → ∃ t : State, Says.Answered (.componentTransfer ep comp (some img)) s t ep 0x01 0 ∧
        t.chim.image b comp = img ∧ (∃ u', t.chim.update = some u' ∧ comp ∈ u'.got ∧ u'.verified = false)) ∧
      (∀ comp, 1 ≤ comp → comp ≤ 5 → ∃ t : State, Says.Answered (.componentTransfer ep comp none) s t ep 0x01 1 ∧
        t.chim.update = none ∧ b ∈ t.chim.invalid) ∧
      ((∀ k ∈ [1, 2, 3, 4, 5], (s.chim.fill u.got).compOk b k = true) →
        ∃ t : State, Says.Answered (.verifyComplete ep) s t ep 0x01 0 ∧ t.chim.update = some { u with verified := true } ∧
          b ∉ t.chim.invalid) ∧
      ((∃ k ∈ [1, 2, 3, 4, 5], (s.chim.fill u.got).compOk b k = false) →
        ∃ t : State, exec (.verifyComplete ep) s = .next t ∧ t.chim.update = none ∧ b ∈ t.chim.invalid ∧ t.rb rSnufferStatus 0 = true) ∧
      (u.verified = true → u.got.contains 1 = false → ∃ t : State, Says.Answered (.activateFirmware ep) s t ep 0x01 0 ∧
        t.chim.active = b ∧ t.chim.update = none) ∧
      (∃ t : State, Says.Answered (.cancelUpdate ep) s t ep 0x01 0 ∧ t.chim.update = none ∧ b ∈ t.chim.invalid)) ∧
    (∃ t : State, Says.Answered (.getFirmwareParameters ep) s t ep 0x01 0)

/-- Chimney's own conditions, and its firmware update. -/
def Obligations.ChimneyAndFirmware : Prop :=
  Sys2Proof.Says.ChimneyConditions ∧ Sys2Proof.Says.FirmwareMessages

/-- Attestation and sessions (R437, R448, R450): a connection advances from version over capabilities to algorithms; certificates, signatures and
measurements follow it; at most four sessions; what authenticates inside one, with the next sequence number, acts and is answered as a secured message; a failed check or tag is an authentication
failure. The cryptography is uninterpreted (log entry 30, PRESUMED); the order checks of messages are log entry 35 (PRESUMED). -/
def Sys2Proof.Says.AttestationMessages : Prop :=
  ∀ (ep : Peer) (s : State), s.answers = true → s.busy ep = false →
    (∃ t : State, Says.Answered (.getVersion ep) s t ep 0x05 0 ∧ t.connOf ep = 1 ∧
      (t.chim.out.getLast?.map (·.items.take 1)) = some [0x12]) ∧
    (s.connOf ep = 1 → ∃ t : State, Says.Answered (.getCapabilities ep) s t ep 0x05 0 ∧ t.connOf ep = 2 ∧
      (t.chim.out.getLast?.map (·.items.take 9)) = some (numItems spdmCaps)) ∧
    (s.connOf ep = 2 → ∀ l, ∃ t : State, Says.Answered (.negotiateAlgorithms ep l) s t ep 0x05 0 ∧ t.connOf ep = 3 ∧
      (t.chim.out.getLast?.map (·.items.take 4)) = some (numItems (spdmAlgs.map Alg.no))) ∧
    (3 ≤ s.connOf ep →
      (∃ t : State, Says.Answered (.getDigests ep) s t ep 0x05 0) ∧
      (∀ off len, off ≤ s.chim.chain.length → ∃ t : State, Says.Answered (.getCertificate ep 0 off len) s t ep 0x05 0) ∧
      (∀ index nonce, index ≤ 8 → ∃ t : State, Says.Answered (.getMeasurements ep none index false nonce) s t ep 0x05 0) ∧
      (s.chim.idKey.isSome = true → ∀ c, (c.good = true → ∃ t : State, Says.Answered (.challenge ep c) s t ep 0x05 0) ∧
        (c.good = false → ∃ t : State, exec (.challenge ep c) s = .next t ∧ s.now ∈ t.chim.fails)) ∧
      (s.chim.idKey = none → ∀ c, ∃ t : State, Says.Answered (.challenge ep c) s t ep 0x05 errUnspecified) ∧
      (s.chim.idKey.isSome = true → s.chim.sessions.length < 4 → ∀ body, ∃ t : State, Says.Answered (.keyExchange ep body true) s t ep 0x05 0 ∧
        t.chim.sessions.length = s.chim.sessions.length + 1) ∧
      (s.chim.idKey.isSome = true → 4 ≤ s.chim.sessions.length → ∀ body,
        ∃ t : State, Says.Answered (.keyExchange ep body true) s t ep 0x05 errSessionLimit ∧ t.chim.sessions = s.chim.sessions)) ∧
    (∀ sess x tag, s.chim.sessOf ep sess = some x → x.open_ = false →
      let good := Config.authOk x.key tag
      ∃ t : State, exec (.finish ep sess tag) s = .next t ∧ (t.chim.sessOf ep sess).map (·.open_) = (if good then some true else none) ∧
        (good = true → Says.Answered (.finish ep sess tag) s t ep 0x06 0) ∧ (good = false → s.now ∈ t.chim.fails)) ∧
    (∀ (sess : Nat) (x : Sess) (a : SecTag), s.chim.sessOf ep sess = some x → x.open_ = true →
      let good := Config.authOk x.key a.tag && a.seq == x.rx
      (∃ t : State, exec (.heartbeat ep sess a) s = .next t ∧ (if good = true then
        Says.Answered (.heartbeat ep sess a) s t ep 0x06 0 ∧ (t.chim.sessOf ep sess).map (·.rx) = some (x.rx + 1) else s.now ∈ t.chim.fails)) ∧
      (∃ t : State, exec (.keyUpdate ep sess a) s = .next t ∧ (if good = true then
        Says.Answered (.keyUpdate ep sess a) s t ep 0x06 0 ∧ (t.chim.sessOf ep sess).map (·.key) = some (Config.sessionKey x.key x.id)
        else s.now ∈ t.chim.fails)) ∧
      (∃ t : State, exec (.endSession ep sess a) s = .next t ∧ (if good = true then
        Says.Answered (.endSession ep sess a) s t ep 0x06 0 ∧ t.chim.sessOf ep sess = none else s.now ∈ t.chim.fails)) ∧
      (∀ index nonce, index ≤ 8 → ∃ t : State, exec (.getMeasurements ep (some ⟨sess, a⟩) index false nonce) s = .next t ∧ (if good = true then
        Says.Answered (.getMeasurements ep (some ⟨sess, a⟩) index false nonce) s t ep 0x06 0 else s.now ∈ t.chim.fails)))

/-- Vendor-defined messages (Table MG-5, R438, R449, R450): readings, power, log, health, capabilities and registers are told; a range beyond the
table gets status 2; the secured commands act where an open session's message authenticates, and get status 3 outside one. The byte layouts are uninterpreted (log entry 33, PRESUMED). -/
def Sys2Proof.Says.VendorMessages : Prop :=
  ∀ (ep : Peer) (s : State), s.answers = true → s.busy ep = false →
    (∀ first count, first + count ≤ 96 → ∃ t : State, Says.Answered (.getSensors ep first count) s t ep 0x7E 0) ∧
    (∀ first count, 96 < first + count → ∃ t : State, Says.Answered (.getSensors ep first count) s t ep 0x7E 2) ∧
    (∀ b first count, first + count ≤ (if b then 24 else 38) → ∃ t : State, Says.Answered (.getZonePower ep b first count) s t ep 0x7E 0) ∧
    (∀ first count, count ≤ 14 → ∃ t : State, Says.Answered (.readLog ep first count) s t ep 0x7E 0) ∧
    (∃ t : State, Says.Answered (.getHealth ep) s t ep 0x7E 0) ∧
    (∀ off, off % 16 = 0 → off / 16 < 21 → ∃ t : State, Says.Answered (.readCap ep off) s t ep 0x7E 0) ∧
    (∀ off, off % 8 = 0 → off < 2 ^ 26 → s.pwr.pkg ≠ .off → ∃ t : State, Says.Answered (.readReg ep off) s t ep 0x7E 0 ∧
      (t.chim.out.getLast?.map (·.items)) = some [((s.readReg off).toNat : Int)]) ∧
    (∀ d nonce, d < 256 → nonce.length = 32 →
      (Tab.get keyReset s.chim.jobKeys d = none → ∃ t : State, Says.Answered (.getJobReport ep none d nonce) s t ep 0x7E 5) ∧
      (Tab.get keyReset s.chim.jobKeys d ≠ none → ∃ t : State, Says.Answered (.getJobReport ep none d nonce) s t ep 0x7E 0)) ∧
    (∀ (m : Secure) (x : Sess), s.chim.sessOf ep m.sess = some x → x.open_ = true →
      let good := Config.authOk x.key m.auth.tag && m.auth.seq == x.rx
      (∀ d key, d < 256 → key.length = 48 → ∃ t : State, exec (.setJobKey ep (some m) d key) s = .next t ∧ (if good = true then
        Says.Answered (.setJobKey ep (some m) d key) s t ep 0x06 0 ∧ Tab.get keyReset t.chim.jobKeys d = some key
        else s.now ∈ t.chim.fails)) ∧
      (∃ t : State, exec (.clearSnuffer ep (some m)) s = .next t ∧ (if good = true then
        t.reg rSnufferStatus = 0#64 ∧ SameRegs s t [rSnufferStatus] else s.now ∈ t.chim.fails)) ∧
      (∃ t : State, exec (.forceStop ep (some m)) s = .next t ∧ (if good = true then t.flt.fatal = true
        else s.now ∈ t.chim.fails ∧ t.flt = s.flt))) ∧
    (∀ sess : Option Secure, (∀ m, sess = some m → ((s.chim.sessOf ep m.sess).map (·.open_)).getD false = false) →
      (∀ d key, ∃ t : State, Says.Answered (.setJobKey ep sess d key) s t ep 0x7E 3 ∧ t.chim.jobKeys = s.chim.jobKeys) ∧
      (∃ t : State, Says.Answered (.clearSnuffer ep sess) s t ep 0x7E 3) ∧
      (∃ t : State, Says.Answered (.forceStop ep sess) s t ep 0x7E 3))

/-- Attestation, sessions and vendor-defined messages. -/
def Obligations.ChimneyMessages : Prop :=
  Sys2Proof.Says.AttestationMessages ∧ Sys2Proof.Says.VendorMessages

/-! ### Faults and reset -/

/-- A Contained fault (R420, R421, R428): the domain is FAULTED, nothing of it runs or waits any more, the fault is counted, and SMOKE_N is
low for 10 microseconds. -/
def Sys2Proof.Says.ContainedFaultStopsDomain : Prop :=
  ∀ (s : State) (d : Nat) (ev : Ev) (causes : List (Nat × Nat)), s.flt.fatal = false → s.faulted d = false → d < 256 →
    let t := s.contained d ev causes
    t.faulted d = true ∧ (∀ r ∈ t.runs, r.cmd.dom ≠ d) ∧ (∀ q, q < 160 → ∀ h ∈ (t.queue q).ents, h.cmd.dom ≠ d) ∧
    t.reg (cDomFault d) = (s.bump (cDomFault d) 1).reg (cDomFault d) ∧ t.flt.smoke = false ∧ t.flt.pulse = some (s.now + 10000)

/-- A Fatal fault (R423, R425, R428): service stops; nothing runs, EMBER is low, and SMOKE_N low for 10 microseconds. A later one stops nothing more and is signalled anew. -/
def Sys2Proof.Says.FatalStopsService : Prop :=
  ∀ (s : State) (ev : Ev) (supp : Nat),
    let t := s.fatal ev supp
    t.flt.fatal = true ∧ t.flt.smoke = false ∧ t.flt.pulse = some (s.now + 10000) ∧ t.flt.ember = false ∧ t.rf rEmberStatus 1 0 = 2 ∧
    (∀ q h, t.headServed q h = false) ∧
    (s.flt.fatal = false → t.runs = [] ∧ t.fab.colls = [] ∧ t.upd.grate = []) ∧ (s.flt.fatal = true → t.runs = s.runs ∧ t.mem = s.mem)

/-- Contained and Fatal faults. -/
def Obligations.FaultsStopService : Prop :=
  Sys2Proof.Says.ContainedFaultStopsDomain ∧ Sys2Proof.Says.FatalStopsService

/-- What reset leaves (R459, R471, Tables RG-2 to RG-9): the tables are canonical and empty, and the registers hold the values that the
tables give them. State that the spec gives no reset value starts at 0 or empty (log entry 2, DESIGN CHOICE), and MSI-X vectors start masked (log entry 19, PRESUMED): those clauses are the model's choice. -/
def Obligations.ResetValues : Prop :=
  State.reset.RegsWf ∧ State.reset.MemsWf ∧ State.reset.pending = [] ∧ State.reset.mem = {} ∧ State.reset.pipe = {} ∧
  State.reset.pwr.pkg = .off ∧ State.reset.locked = false ∧ State.reset.rf rStokePeriod 12 0 = 250 ∧ State.reset.rf rStokePeriodNext 12 0 = 250 ∧
  State.reset.rf rPowerCtl 11 0 = 2800 ∧ State.reset.rf rPowerCtl 22 16 = 10 ∧ State.reset.rf rPowerCtl 30 24 = 15 ∧
  State.reset.rf rPowerCtl 59 48 = 600 ∧ State.reset.rf rFrameCtl 7 0 = 16 ∧ State.reset.rf rFrameCtl 14 8 = 40 ∧
  State.reset.rf rZoneCtl 6 0 = 100 ∧ State.reset.rf rEmberStatus 1 0 = 3 ∧ State.reset.flt.seq = 1 ∧ State.reset.chim.limits.junction = 880 ∧ State.reset.chim.limits.coolantStart = 320 ∧
  (∀ z, z < 38 → State.reset.zFreq z = 20 ∧ State.reset.zTgt z = 40) ∧
  (∀ v, v < 8 → State.reset.rf (rVcCfg v) 13 0 = vcCreditsReset v ∧ State.reset.vcWeight v = 1) ∧
  (∀ r, r < 64 → State.reset.ringLen r = 16 ∧ State.reset.cplLen r = 16) ∧
  (∀ v, v < 256 → State.reset.masked v = true)

end Statements
end

