-- ==== Sys2Proof/Laws/State.lean ====
section
/-!
SUPPORT. What each plain update of the state leaves alone: one law per update and field.
-/
namespace Sys2Proof.Machine

/-! ### setReg -/

section
variable (s : State) (off : Nat) (v : W64)
@[simp] theorem State.setReg_pending : (s.setReg off v).pending = s.pending := rfl
@[simp] theorem State.setReg_free : (s.setReg off v).free = s.free := rfl
@[simp] theorem State.setReg_now : (s.setReg off v).now = s.now := rfl
@[simp] theorem State.setReg_mem : (s.setReg off v).mem = s.mem := rfl
@[simp] theorem State.setReg_pipe : (s.setReg off v).pipe = s.pipe := rfl
@[simp] theorem State.setReg_frame : (s.setReg off v).frame = s.frame := rfl
@[simp] theorem State.setReg_doms : (s.setReg off v).doms = s.doms := rfl
@[simp] theorem State.setReg_ctxs : (s.setReg off v).ctxs = s.ctxs := rfl
@[simp] theorem State.setReg_upd : (s.setReg off v).upd = s.upd := rfl
@[simp] theorem State.setReg_fab : (s.setReg off v).fab = s.fab := rfl
@[simp] theorem State.setReg_tiles : (s.setReg off v).tiles = s.tiles := rfl
@[simp] theorem State.setReg_flt : (s.setReg off v).flt = s.flt := rfl
@[simp] theorem State.setReg_host : (s.setReg off v).host = s.host := rfl
@[simp] theorem State.setReg_integ : (s.setReg off v).integ = s.integ := rfl
@[simp] theorem State.setReg_chim : (s.setReg off v).chim = s.chim := rfl
@[simp] theorem State.setReg_pwr : (s.setReg off v).pwr = s.pwr := rfl
end

/-! ### setRf -/

section
variable (s : State) (off hi lo v : Nat)
@[simp] theorem State.setRf_pending : (s.setRf off hi lo v).pending = s.pending := rfl
@[simp] theorem State.setRf_free : (s.setRf off hi lo v).free = s.free := rfl
@[simp] theorem State.setRf_now : (s.setRf off hi lo v).now = s.now := rfl
@[simp] theorem State.setRf_mem : (s.setRf off hi lo v).mem = s.mem := rfl
@[simp] theorem State.setRf_pipe : (s.setRf off hi lo v).pipe = s.pipe := rfl
@[simp] theorem State.setRf_frame : (s.setRf off hi lo v).frame = s.frame := rfl
@[simp] theorem State.setRf_doms : (s.setRf off hi lo v).doms = s.doms := rfl
@[simp] theorem State.setRf_ctxs : (s.setRf off hi lo v).ctxs = s.ctxs := rfl
@[simp] theorem State.setRf_upd : (s.setRf off hi lo v).upd = s.upd := rfl
@[simp] theorem State.setRf_fab : (s.setRf off hi lo v).fab = s.fab := rfl
@[simp] theorem State.setRf_tiles : (s.setRf off hi lo v).tiles = s.tiles := rfl
@[simp] theorem State.setRf_flt : (s.setRf off hi lo v).flt = s.flt := rfl
@[simp] theorem State.setRf_host : (s.setRf off hi lo v).host = s.host := rfl
@[simp] theorem State.setRf_integ : (s.setRf off hi lo v).integ = s.integ := rfl
@[simp] theorem State.setRf_chim : (s.setRf off hi lo v).chim = s.chim := rfl
@[simp] theorem State.setRf_pwr : (s.setRf off hi lo v).pwr = s.pwr := rfl
end

/-! ### setRb -/

section
variable (s : State) (off i : Nat) (b : Bool)
@[simp] theorem State.setRb_pending : (s.setRb off i b).pending = s.pending := rfl
@[simp] theorem State.setRb_free : (s.setRb off i b).free = s.free := rfl
@[simp] theorem State.setRb_now : (s.setRb off i b).now = s.now := rfl
@[simp] theorem State.setRb_mem : (s.setRb off i b).mem = s.mem := rfl
@[simp] theorem State.setRb_pipe : (s.setRb off i b).pipe = s.pipe := rfl
@[simp] theorem State.setRb_frame : (s.setRb off i b).frame = s.frame := rfl
@[simp] theorem State.setRb_doms : (s.setRb off i b).doms = s.doms := rfl
@[simp] theorem State.setRb_ctxs : (s.setRb off i b).ctxs = s.ctxs := rfl
@[simp] theorem State.setRb_upd : (s.setRb off i b).upd = s.upd := rfl
@[simp] theorem State.setRb_fab : (s.setRb off i b).fab = s.fab := rfl
@[simp] theorem State.setRb_tiles : (s.setRb off i b).tiles = s.tiles := rfl
@[simp] theorem State.setRb_flt : (s.setRb off i b).flt = s.flt := rfl
@[simp] theorem State.setRb_host : (s.setRb off i b).host = s.host := rfl
@[simp] theorem State.setRb_integ : (s.setRb off i b).integ = s.integ := rfl
@[simp] theorem State.setRb_chim : (s.setRb off i b).chim = s.chim := rfl
@[simp] theorem State.setRb_pwr : (s.setRb off i b).pwr = s.pwr := rfl
end

/-! ### bump -/

section
variable (s : State) (off n : Nat)
@[simp] theorem State.bump_pending : (s.bump off n).pending = s.pending := rfl
@[simp] theorem State.bump_free : (s.bump off n).free = s.free := rfl
@[simp] theorem State.bump_now : (s.bump off n).now = s.now := rfl
@[simp] theorem State.bump_mem : (s.bump off n).mem = s.mem := rfl
@[simp] theorem State.bump_pipe : (s.bump off n).pipe = s.pipe := rfl
@[simp] theorem State.bump_frame : (s.bump off n).frame = s.frame := rfl
@[simp] theorem State.bump_doms : (s.bump off n).doms = s.doms := rfl
@[simp] theorem State.bump_ctxs : (s.bump off n).ctxs = s.ctxs := rfl
@[simp] theorem State.bump_upd : (s.bump off n).upd = s.upd := rfl
@[simp] theorem State.bump_fab : (s.bump off n).fab = s.fab := rfl
@[simp] theorem State.bump_tiles : (s.bump off n).tiles = s.tiles := rfl
@[simp] theorem State.bump_flt : (s.bump off n).flt = s.flt := rfl
@[simp] theorem State.bump_host : (s.bump off n).host = s.host := rfl
@[simp] theorem State.bump_integ : (s.bump off n).integ = s.integ := rfl
@[simp] theorem State.bump_chim : (s.bump off n).chim = s.chim := rfl
@[simp] theorem State.bump_pwr : (s.bump off n).pwr = s.pwr := rfl
end

/-! ### timeTo -/

section
variable (s : State) (t : Nat)
@[simp] theorem State.timeTo_pending : (s.timeTo t).pending = s.pending := rfl
@[simp] theorem State.timeTo_free : (s.timeTo t).free = s.free := rfl
@[simp] theorem State.timeTo_regs : (s.timeTo t).regs = s.regs := rfl
@[simp] theorem State.timeTo_mem : (s.timeTo t).mem = s.mem := rfl
@[simp] theorem State.timeTo_pipe : (s.timeTo t).pipe = s.pipe := rfl
@[simp] theorem State.timeTo_frame : (s.timeTo t).frame = s.frame := rfl
@[simp] theorem State.timeTo_doms : (s.timeTo t).doms = s.doms := rfl
@[simp] theorem State.timeTo_ctxs : (s.timeTo t).ctxs = s.ctxs := rfl
@[simp] theorem State.timeTo_upd : (s.timeTo t).upd = s.upd := rfl
@[simp] theorem State.timeTo_fab : (s.timeTo t).fab = s.fab := rfl
@[simp] theorem State.timeTo_tiles : (s.timeTo t).tiles = s.tiles := rfl
@[simp] theorem State.timeTo_flt : (s.timeTo t).flt = s.flt := rfl
@[simp] theorem State.timeTo_host : (s.timeTo t).host = s.host := rfl
@[simp] theorem State.timeTo_integ : (s.timeTo t).integ = s.integ := rfl
@[simp] theorem State.timeTo_chim : (s.timeTo t).chim = s.chim := rfl
@[simp] theorem State.timeTo_pwr : (s.timeTo t).pwr = s.pwr := rfl
end

/-! ### modDom -/

section
variable (s : State) (d : Nat) (f : Dom → Dom)
@[simp] theorem State.modDom_pending : (s.modDom d f).pending = s.pending := rfl
@[simp] theorem State.modDom_free : (s.modDom d f).free = s.free := rfl
@[simp] theorem State.modDom_now : (s.modDom d f).now = s.now := rfl
@[simp] theorem State.modDom_regs : (s.modDom d f).regs = s.regs := rfl
@[simp] theorem State.modDom_mem : (s.modDom d f).mem = s.mem := rfl
@[simp] theorem State.modDom_pipe : (s.modDom d f).pipe = s.pipe := rfl
@[simp] theorem State.modDom_frame : (s.modDom d f).frame = s.frame := rfl
@[simp] theorem State.modDom_ctxs : (s.modDom d f).ctxs = s.ctxs := rfl
@[simp] theorem State.modDom_upd : (s.modDom d f).upd = s.upd := rfl
@[simp] theorem State.modDom_fab : (s.modDom d f).fab = s.fab := rfl
@[simp] theorem State.modDom_tiles : (s.modDom d f).tiles = s.tiles := rfl
@[simp] theorem State.modDom_flt : (s.modDom d f).flt = s.flt := rfl
@[simp] theorem State.modDom_host : (s.modDom d f).host = s.host := rfl
@[simp] theorem State.modDom_integ : (s.modDom d f).integ = s.integ := rfl
@[simp] theorem State.modDom_chim : (s.modDom d f).chim = s.chim := rfl
@[simp] theorem State.modDom_pwr : (s.modDom d f).pwr = s.pwr := rfl
end

/-! ### modCtx -/

section
variable (s : State) (c : Nat) (f : Ctx → Ctx)
@[simp] theorem State.modCtx_pending : (s.modCtx c f).pending = s.pending := rfl
@[simp] theorem State.modCtx_free : (s.modCtx c f).free = s.free := rfl
@[simp] theorem State.modCtx_now : (s.modCtx c f).now = s.now := rfl
@[simp] theorem State.modCtx_regs : (s.modCtx c f).regs = s.regs := rfl
@[simp] theorem State.modCtx_mem : (s.modCtx c f).mem = s.mem := rfl
@[simp] theorem State.modCtx_pipe : (s.modCtx c f).pipe = s.pipe := rfl
@[simp] theorem State.modCtx_frame : (s.modCtx c f).frame = s.frame := rfl
@[simp] theorem State.modCtx_doms : (s.modCtx c f).doms = s.doms := rfl
@[simp] theorem State.modCtx_upd : (s.modCtx c f).upd = s.upd := rfl
@[simp] theorem State.modCtx_fab : (s.modCtx c f).fab = s.fab := rfl
@[simp] theorem State.modCtx_tiles : (s.modCtx c f).tiles = s.tiles := rfl
@[simp] theorem State.modCtx_flt : (s.modCtx c f).flt = s.flt := rfl
@[simp] theorem State.modCtx_host : (s.modCtx c f).host = s.host := rfl
@[simp] theorem State.modCtx_integ : (s.modCtx c f).integ = s.integ := rfl
@[simp] theorem State.modCtx_chim : (s.modCtx c f).chim = s.chim := rfl
@[simp] theorem State.modCtx_pwr : (s.modCtx c f).pwr = s.pwr := rfl
end

/-! ### setQueue -/

section
variable (s : State) (q : Nat) (v : Queue)
@[simp] theorem State.setQueue_pending : (s.setQueue q v).pending = s.pending := rfl
@[simp] theorem State.setQueue_free : (s.setQueue q v).free = s.free := rfl
@[simp] theorem State.setQueue_now : (s.setQueue q v).now = s.now := rfl
@[simp] theorem State.setQueue_regs : (s.setQueue q v).regs = s.regs := rfl
@[simp] theorem State.setQueue_mem : (s.setQueue q v).mem = s.mem := rfl
@[simp] theorem State.setQueue_frame : (s.setQueue q v).frame = s.frame := rfl
@[simp] theorem State.setQueue_doms : (s.setQueue q v).doms = s.doms := rfl
@[simp] theorem State.setQueue_ctxs : (s.setQueue q v).ctxs = s.ctxs := rfl
@[simp] theorem State.setQueue_upd : (s.setQueue q v).upd = s.upd := rfl
@[simp] theorem State.setQueue_fab : (s.setQueue q v).fab = s.fab := rfl
@[simp] theorem State.setQueue_tiles : (s.setQueue q v).tiles = s.tiles := rfl
@[simp] theorem State.setQueue_flt : (s.setQueue q v).flt = s.flt := rfl
@[simp] theorem State.setQueue_host : (s.setQueue q v).host = s.host := rfl
@[simp] theorem State.setQueue_integ : (s.setQueue q v).integ = s.integ := rfl
@[simp] theorem State.setQueue_chim : (s.setQueue q v).chim = s.chim := rfl
@[simp] theorem State.setQueue_pwr : (s.setQueue q v).pwr = s.pwr := rfl
end

/-! ### popHead -/

section
variable (s : State) (q : Nat)
@[simp] theorem State.popHead_pending : (s.popHead q).pending = s.pending := rfl
@[simp] theorem State.popHead_free : (s.popHead q).free = s.free := rfl
@[simp] theorem State.popHead_now : (s.popHead q).now = s.now := rfl
@[simp] theorem State.popHead_regs : (s.popHead q).regs = s.regs := rfl
@[simp] theorem State.popHead_mem : (s.popHead q).mem = s.mem := rfl
@[simp] theorem State.popHead_frame : (s.popHead q).frame = s.frame := rfl
@[simp] theorem State.popHead_doms : (s.popHead q).doms = s.doms := rfl
@[simp] theorem State.popHead_ctxs : (s.popHead q).ctxs = s.ctxs := rfl
@[simp] theorem State.popHead_upd : (s.popHead q).upd = s.upd := rfl
@[simp] theorem State.popHead_fab : (s.popHead q).fab = s.fab := rfl
@[simp] theorem State.popHead_tiles : (s.popHead q).tiles = s.tiles := rfl
@[simp] theorem State.popHead_flt : (s.popHead q).flt = s.flt := rfl
@[simp] theorem State.popHead_host : (s.popHead q).host = s.host := rfl
@[simp] theorem State.popHead_integ : (s.popHead q).integ = s.integ := rfl
@[simp] theorem State.popHead_chim : (s.popHead q).chim = s.chim := rfl
@[simp] theorem State.popHead_pwr : (s.popHead q).pwr = s.pwr := rfl
end

/-! ### pushQueue -/

section
variable (s : State) (q : Nat) (c : QEnt)
@[simp] theorem State.pushQueue_pending : (s.pushQueue q c).pending = s.pending := rfl
@[simp] theorem State.pushQueue_free : (s.pushQueue q c).free = s.free := rfl
@[simp] theorem State.pushQueue_now : (s.pushQueue q c).now = s.now := rfl
@[simp] theorem State.pushQueue_regs : (s.pushQueue q c).regs = s.regs := rfl
@[simp] theorem State.pushQueue_mem : (s.pushQueue q c).mem = s.mem := rfl
@[simp] theorem State.pushQueue_frame : (s.pushQueue q c).frame = s.frame := rfl
@[simp] theorem State.pushQueue_doms : (s.pushQueue q c).doms = s.doms := rfl
@[simp] theorem State.pushQueue_ctxs : (s.pushQueue q c).ctxs = s.ctxs := rfl
@[simp] theorem State.pushQueue_upd : (s.pushQueue q c).upd = s.upd := rfl
@[simp] theorem State.pushQueue_fab : (s.pushQueue q c).fab = s.fab := rfl
@[simp] theorem State.pushQueue_tiles : (s.pushQueue q c).tiles = s.tiles := rfl
@[simp] theorem State.pushQueue_flt : (s.pushQueue q c).flt = s.flt := rfl
@[simp] theorem State.pushQueue_host : (s.pushQueue q c).host = s.host := rfl
@[simp] theorem State.pushQueue_integ : (s.pushQueue q c).integ = s.integ := rfl
@[simp] theorem State.pushQueue_chim : (s.pushQueue q c).chim = s.chim := rfl
@[simp] theorem State.pushQueue_pwr : (s.pushQueue q c).pwr = s.pwr := rfl
end

/-! ### setRing -/

section
variable (s : State) (r : Nat) (v : Ring)
@[simp] theorem State.setRing_pending : (s.setRing r v).pending = s.pending := rfl
@[simp] theorem State.setRing_free : (s.setRing r v).free = s.free := rfl
@[simp] theorem State.setRing_now : (s.setRing r v).now = s.now := rfl
@[simp] theorem State.setRing_regs : (s.setRing r v).regs = s.regs := rfl
@[simp] theorem State.setRing_mem : (s.setRing r v).mem = s.mem := rfl
@[simp] theorem State.setRing_frame : (s.setRing r v).frame = s.frame := rfl
@[simp] theorem State.setRing_doms : (s.setRing r v).doms = s.doms := rfl
@[simp] theorem State.setRing_ctxs : (s.setRing r v).ctxs = s.ctxs := rfl
@[simp] theorem State.setRing_upd : (s.setRing r v).upd = s.upd := rfl
@[simp] theorem State.setRing_fab : (s.setRing r v).fab = s.fab := rfl
@[simp] theorem State.setRing_tiles : (s.setRing r v).tiles = s.tiles := rfl
@[simp] theorem State.setRing_flt : (s.setRing r v).flt = s.flt := rfl
@[simp] theorem State.setRing_host : (s.setRing r v).host = s.host := rfl
@[simp] theorem State.setRing_integ : (s.setRing r v).integ = s.integ := rfl
@[simp] theorem State.setRing_chim : (s.setRing r v).chim = s.chim := rfl
@[simp] theorem State.setRing_pwr : (s.setRing r v).pwr = s.pwr := rfl
end

/-! ### setCpl -/

section
variable (s : State) (c : Nat) (v : Cpl)
@[simp] theorem State.setCpl_pending : (s.setCpl c v).pending = s.pending := rfl
@[simp] theorem State.setCpl_free : (s.setCpl c v).free = s.free := rfl
@[simp] theorem State.setCpl_now : (s.setCpl c v).now = s.now := rfl
@[simp] theorem State.setCpl_regs : (s.setCpl c v).regs = s.regs := rfl
@[simp] theorem State.setCpl_mem : (s.setCpl c v).mem = s.mem := rfl
@[simp] theorem State.setCpl_frame : (s.setCpl c v).frame = s.frame := rfl
@[simp] theorem State.setCpl_doms : (s.setCpl c v).doms = s.doms := rfl
@[simp] theorem State.setCpl_ctxs : (s.setCpl c v).ctxs = s.ctxs := rfl
@[simp] theorem State.setCpl_upd : (s.setCpl c v).upd = s.upd := rfl
@[simp] theorem State.setCpl_fab : (s.setCpl c v).fab = s.fab := rfl
@[simp] theorem State.setCpl_tiles : (s.setCpl c v).tiles = s.tiles := rfl
@[simp] theorem State.setCpl_flt : (s.setCpl c v).flt = s.flt := rfl
@[simp] theorem State.setCpl_host : (s.setCpl c v).host = s.host := rfl
@[simp] theorem State.setCpl_integ : (s.setCpl c v).integ = s.integ := rfl
@[simp] theorem State.setCpl_chim : (s.setCpl c v).chim = s.chim := rfl
@[simp] theorem State.setCpl_pwr : (s.setCpl c v).pwr = s.pwr := rfl
end

/-! ### setRuns -/

section
variable (s : State) (rs : List Run)
@[simp] theorem State.setRuns_pending : (s.setRuns rs).pending = s.pending := rfl
@[simp] theorem State.setRuns_free : (s.setRuns rs).free = s.free := rfl
@[simp] theorem State.setRuns_now : (s.setRuns rs).now = s.now := rfl
@[simp] theorem State.setRuns_regs : (s.setRuns rs).regs = s.regs := rfl
@[simp] theorem State.setRuns_mem : (s.setRuns rs).mem = s.mem := rfl
@[simp] theorem State.setRuns_frame : (s.setRuns rs).frame = s.frame := rfl
@[simp] theorem State.setRuns_doms : (s.setRuns rs).doms = s.doms := rfl
@[simp] theorem State.setRuns_ctxs : (s.setRuns rs).ctxs = s.ctxs := rfl
@[simp] theorem State.setRuns_upd : (s.setRuns rs).upd = s.upd := rfl
@[simp] theorem State.setRuns_fab : (s.setRuns rs).fab = s.fab := rfl
@[simp] theorem State.setRuns_tiles : (s.setRuns rs).tiles = s.tiles := rfl
@[simp] theorem State.setRuns_flt : (s.setRuns rs).flt = s.flt := rfl
@[simp] theorem State.setRuns_host : (s.setRuns rs).host = s.host := rfl
@[simp] theorem State.setRuns_integ : (s.setRuns rs).integ = s.integ := rfl
@[simp] theorem State.setRuns_chim : (s.setRuns rs).chim = s.chim := rfl
@[simp] theorem State.setRuns_pwr : (s.setRuns rs).pwr = s.pwr := rfl
end

/-! ### modRun -/

section
variable (s : State) (id : Nat) (f : Run → Run)
@[simp] theorem State.modRun_pending : (s.modRun id f).pending = s.pending := rfl
@[simp] theorem State.modRun_free : (s.modRun id f).free = s.free := rfl
@[simp] theorem State.modRun_now : (s.modRun id f).now = s.now := rfl
@[simp] theorem State.modRun_regs : (s.modRun id f).regs = s.regs := rfl
@[simp] theorem State.modRun_mem : (s.modRun id f).mem = s.mem := rfl
@[simp] theorem State.modRun_frame : (s.modRun id f).frame = s.frame := rfl
@[simp] theorem State.modRun_doms : (s.modRun id f).doms = s.doms := rfl
@[simp] theorem State.modRun_ctxs : (s.modRun id f).ctxs = s.ctxs := rfl
@[simp] theorem State.modRun_upd : (s.modRun id f).upd = s.upd := rfl
@[simp] theorem State.modRun_fab : (s.modRun id f).fab = s.fab := rfl
@[simp] theorem State.modRun_tiles : (s.modRun id f).tiles = s.tiles := rfl
@[simp] theorem State.modRun_flt : (s.modRun id f).flt = s.flt := rfl
@[simp] theorem State.modRun_host : (s.modRun id f).host = s.host := rfl
@[simp] theorem State.modRun_integ : (s.modRun id f).integ = s.integ := rfl
@[simp] theorem State.modRun_chim : (s.modRun id f).chim = s.chim := rfl
@[simp] theorem State.modRun_pwr : (s.modRun id f).pwr = s.pwr := rfl
end

/-! ### dropRun -/

section
variable (s : State) (id : Nat)
@[simp] theorem State.dropRun_pending : (s.dropRun id).pending = s.pending := rfl
@[simp] theorem State.dropRun_free : (s.dropRun id).free = s.free := rfl
@[simp] theorem State.dropRun_now : (s.dropRun id).now = s.now := rfl
@[simp] theorem State.dropRun_regs : (s.dropRun id).regs = s.regs := rfl
@[simp] theorem State.dropRun_mem : (s.dropRun id).mem = s.mem := rfl
@[simp] theorem State.dropRun_frame : (s.dropRun id).frame = s.frame := rfl
@[simp] theorem State.dropRun_doms : (s.dropRun id).doms = s.doms := rfl
@[simp] theorem State.dropRun_ctxs : (s.dropRun id).ctxs = s.ctxs := rfl
@[simp] theorem State.dropRun_upd : (s.dropRun id).upd = s.upd := rfl
@[simp] theorem State.dropRun_fab : (s.dropRun id).fab = s.fab := rfl
@[simp] theorem State.dropRun_tiles : (s.dropRun id).tiles = s.tiles := rfl
@[simp] theorem State.dropRun_flt : (s.dropRun id).flt = s.flt := rfl
@[simp] theorem State.dropRun_host : (s.dropRun id).host = s.host := rfl
@[simp] theorem State.dropRun_integ : (s.dropRun id).integ = s.integ := rfl
@[simp] theorem State.dropRun_chim : (s.dropRun id).chim = s.chim := rfl
@[simp] theorem State.dropRun_pwr : (s.dropRun id).pwr = s.pwr := rfl
end

/-! ### addRun -/

section
variable (s : State) (r : Run)
@[simp] theorem State.addRun_pending : (s.addRun r).pending = s.pending := rfl
@[simp] theorem State.addRun_free : (s.addRun r).free = s.free := rfl
@[simp] theorem State.addRun_now : (s.addRun r).now = s.now := rfl
@[simp] theorem State.addRun_regs : (s.addRun r).regs = s.regs := rfl
@[simp] theorem State.addRun_mem : (s.addRun r).mem = s.mem := rfl
@[simp] theorem State.addRun_frame : (s.addRun r).frame = s.frame := rfl
@[simp] theorem State.addRun_doms : (s.addRun r).doms = s.doms := rfl
@[simp] theorem State.addRun_ctxs : (s.addRun r).ctxs = s.ctxs := rfl
@[simp] theorem State.addRun_upd : (s.addRun r).upd = s.upd := rfl
@[simp] theorem State.addRun_fab : (s.addRun r).fab = s.fab := rfl
@[simp] theorem State.addRun_tiles : (s.addRun r).tiles = s.tiles := rfl
@[simp] theorem State.addRun_flt : (s.addRun r).flt = s.flt := rfl
@[simp] theorem State.addRun_host : (s.addRun r).host = s.host := rfl
@[simp] theorem State.addRun_integ : (s.addRun r).integ = s.integ := rfl
@[simp] theorem State.addRun_chim : (s.addRun r).chim = s.chim := rfl
@[simp] theorem State.addRun_pwr : (s.addRun r).pwr = s.pwr := rfl
end

/-! ### setTally -/

section
variable (s : State) (t : Nat) (v : BitVec 48)
@[simp] theorem State.setTally_pending : (s.setTally t v).pending = s.pending := rfl
@[simp] theorem State.setTally_free : (s.setTally t v).free = s.free := rfl
@[simp] theorem State.setTally_now : (s.setTally t v).now = s.now := rfl
@[simp] theorem State.setTally_regs : (s.setTally t v).regs = s.regs := rfl
@[simp] theorem State.setTally_mem : (s.setTally t v).mem = s.mem := rfl
@[simp] theorem State.setTally_frame : (s.setTally t v).frame = s.frame := rfl
@[simp] theorem State.setTally_doms : (s.setTally t v).doms = s.doms := rfl
@[simp] theorem State.setTally_ctxs : (s.setTally t v).ctxs = s.ctxs := rfl
@[simp] theorem State.setTally_upd : (s.setTally t v).upd = s.upd := rfl
@[simp] theorem State.setTally_fab : (s.setTally t v).fab = s.fab := rfl
@[simp] theorem State.setTally_tiles : (s.setTally t v).tiles = s.tiles := rfl
@[simp] theorem State.setTally_flt : (s.setTally t v).flt = s.flt := rfl
@[simp] theorem State.setTally_host : (s.setTally t v).host = s.host := rfl
@[simp] theorem State.setTally_integ : (s.setTally t v).integ = s.integ := rfl
@[simp] theorem State.setTally_chim : (s.setTally t v).chim = s.chim := rfl
@[simp] theorem State.setTally_pwr : (s.setTally t v).pwr = s.pwr := rfl
end

/-! ### signalTally -/

section
variable (s : State) (t a : Nat)
@[simp] theorem State.signalTally_pending : (s.signalTally t a).pending = s.pending := rfl
@[simp] theorem State.signalTally_free : (s.signalTally t a).free = s.free := rfl
@[simp] theorem State.signalTally_now : (s.signalTally t a).now = s.now := rfl
@[simp] theorem State.signalTally_regs : (s.signalTally t a).regs = s.regs := rfl
@[simp] theorem State.signalTally_mem : (s.signalTally t a).mem = s.mem := rfl
@[simp] theorem State.signalTally_frame : (s.signalTally t a).frame = s.frame := rfl
@[simp] theorem State.signalTally_doms : (s.signalTally t a).doms = s.doms := rfl
@[simp] theorem State.signalTally_ctxs : (s.signalTally t a).ctxs = s.ctxs := rfl
@[simp] theorem State.signalTally_upd : (s.signalTally t a).upd = s.upd := rfl
@[simp] theorem State.signalTally_fab : (s.signalTally t a).fab = s.fab := rfl
@[simp] theorem State.signalTally_tiles : (s.signalTally t a).tiles = s.tiles := rfl
@[simp] theorem State.signalTally_flt : (s.signalTally t a).flt = s.flt := rfl
@[simp] theorem State.signalTally_host : (s.signalTally t a).host = s.host := rfl
@[simp] theorem State.signalTally_integ : (s.signalTally t a).integ = s.integ := rfl
@[simp] theorem State.signalTally_chim : (s.signalTally t a).chim = s.chim := rfl
@[simp] theorem State.signalTally_pwr : (s.signalTally t a).pwr = s.pwr := rfl
end

/-! ### modStream -/

section
variable (s : State) (n : Nat) (f : Stream → Stream)
@[simp] theorem State.modStream_pending : (s.modStream n f).pending = s.pending := rfl
@[simp] theorem State.modStream_free : (s.modStream n f).free = s.free := rfl
@[simp] theorem State.modStream_now : (s.modStream n f).now = s.now := rfl
@[simp] theorem State.modStream_regs : (s.modStream n f).regs = s.regs := rfl
@[simp] theorem State.modStream_mem : (s.modStream n f).mem = s.mem := rfl
@[simp] theorem State.modStream_pipe : (s.modStream n f).pipe = s.pipe := rfl
@[simp] theorem State.modStream_frame : (s.modStream n f).frame = s.frame := rfl
@[simp] theorem State.modStream_doms : (s.modStream n f).doms = s.doms := rfl
@[simp] theorem State.modStream_ctxs : (s.modStream n f).ctxs = s.ctxs := rfl
@[simp] theorem State.modStream_upd : (s.modStream n f).upd = s.upd := rfl
@[simp] theorem State.modStream_tiles : (s.modStream n f).tiles = s.tiles := rfl
@[simp] theorem State.modStream_flt : (s.modStream n f).flt = s.flt := rfl
@[simp] theorem State.modStream_host : (s.modStream n f).host = s.host := rfl
@[simp] theorem State.modStream_integ : (s.modStream n f).integ = s.integ := rfl
@[simp] theorem State.modStream_chim : (s.modStream n f).chim = s.chim := rfl
@[simp] theorem State.modStream_pwr : (s.modStream n f).pwr = s.pwr := rfl
end

/-! ### post -/

section
variable (s : State) (p : Post)
@[simp] theorem State.post_pending : (s.post p).pending = s.pending := rfl
@[simp] theorem State.post_free : (s.post p).free = s.free := rfl
@[simp] theorem State.post_now : (s.post p).now = s.now := rfl
@[simp] theorem State.post_regs : (s.post p).regs = s.regs := rfl
@[simp] theorem State.post_mem : (s.post p).mem = s.mem := rfl
@[simp] theorem State.post_pipe : (s.post p).pipe = s.pipe := rfl
@[simp] theorem State.post_frame : (s.post p).frame = s.frame := rfl
@[simp] theorem State.post_doms : (s.post p).doms = s.doms := rfl
@[simp] theorem State.post_ctxs : (s.post p).ctxs = s.ctxs := rfl
@[simp] theorem State.post_upd : (s.post p).upd = s.upd := rfl
@[simp] theorem State.post_fab : (s.post p).fab = s.fab := rfl
@[simp] theorem State.post_tiles : (s.post p).tiles = s.tiles := rfl
@[simp] theorem State.post_flt : (s.post p).flt = s.flt := rfl
@[simp] theorem State.post_integ : (s.post p).integ = s.integ := rfl
@[simp] theorem State.post_chim : (s.post p).chim = s.chim := rfl
@[simp] theorem State.post_pwr : (s.post p).pwr = s.pwr := rfl
end

/-! ### setMem -/

section
variable (s : State) (m : Mem)
@[simp] theorem State.setMem_pending : (s.setMem m).pending = s.pending := rfl
@[simp] theorem State.setMem_free : (s.setMem m).free = s.free := rfl
@[simp] theorem State.setMem_now : (s.setMem m).now = s.now := rfl
@[simp] theorem State.setMem_regs : (s.setMem m).regs = s.regs := rfl
@[simp] theorem State.setMem_pipe : (s.setMem m).pipe = s.pipe := rfl
@[simp] theorem State.setMem_frame : (s.setMem m).frame = s.frame := rfl
@[simp] theorem State.setMem_doms : (s.setMem m).doms = s.doms := rfl
@[simp] theorem State.setMem_ctxs : (s.setMem m).ctxs = s.ctxs := rfl
@[simp] theorem State.setMem_upd : (s.setMem m).upd = s.upd := rfl
@[simp] theorem State.setMem_fab : (s.setMem m).fab = s.fab := rfl
@[simp] theorem State.setMem_tiles : (s.setMem m).tiles = s.tiles := rfl
@[simp] theorem State.setMem_flt : (s.setMem m).flt = s.flt := rfl
@[simp] theorem State.setMem_host : (s.setMem m).host = s.host := rfl
@[simp] theorem State.setMem_integ : (s.setMem m).integ = s.integ := rfl
@[simp] theorem State.setMem_chim : (s.setMem m).chim = s.chim := rfl
@[simp] theorem State.setMem_pwr : (s.setMem m).pwr = s.pwr := rfl
end

/-! ### setChim -/

section
variable (s : State) (c : Chim)
@[simp] theorem State.setChim_pending : (s.setChim c).pending = s.pending := rfl
@[simp] theorem State.setChim_free : (s.setChim c).free = s.free := rfl
@[simp] theorem State.setChim_now : (s.setChim c).now = s.now := rfl
@[simp] theorem State.setChim_regs : (s.setChim c).regs = s.regs := rfl
@[simp] theorem State.setChim_mem : (s.setChim c).mem = s.mem := rfl
@[simp] theorem State.setChim_pipe : (s.setChim c).pipe = s.pipe := rfl
@[simp] theorem State.setChim_frame : (s.setChim c).frame = s.frame := rfl
@[simp] theorem State.setChim_doms : (s.setChim c).doms = s.doms := rfl
@[simp] theorem State.setChim_ctxs : (s.setChim c).ctxs = s.ctxs := rfl
@[simp] theorem State.setChim_upd : (s.setChim c).upd = s.upd := rfl
@[simp] theorem State.setChim_fab : (s.setChim c).fab = s.fab := rfl
@[simp] theorem State.setChim_tiles : (s.setChim c).tiles = s.tiles := rfl
@[simp] theorem State.setChim_flt : (s.setChim c).flt = s.flt := rfl
@[simp] theorem State.setChim_host : (s.setChim c).host = s.host := rfl
@[simp] theorem State.setChim_integ : (s.setChim c).integ = s.integ := rfl
@[simp] theorem State.setChim_pwr : (s.setChim c).pwr = s.pwr := rfl
end

/-! ### setThrottled -/

section
variable (s : State) (zs : List Nat)
@[simp] theorem State.setThrottled_pending : (s.setThrottled zs).pending = s.pending := rfl
@[simp] theorem State.setThrottled_free : (s.setThrottled zs).free = s.free := rfl
@[simp] theorem State.setThrottled_now : (s.setThrottled zs).now = s.now := rfl
@[simp] theorem State.setThrottled_regs : (s.setThrottled zs).regs = s.regs := rfl
@[simp] theorem State.setThrottled_mem : (s.setThrottled zs).mem = s.mem := rfl
@[simp] theorem State.setThrottled_pipe : (s.setThrottled zs).pipe = s.pipe := rfl
@[simp] theorem State.setThrottled_doms : (s.setThrottled zs).doms = s.doms := rfl
@[simp] theorem State.setThrottled_ctxs : (s.setThrottled zs).ctxs = s.ctxs := rfl
@[simp] theorem State.setThrottled_upd : (s.setThrottled zs).upd = s.upd := rfl
@[simp] theorem State.setThrottled_fab : (s.setThrottled zs).fab = s.fab := rfl
@[simp] theorem State.setThrottled_tiles : (s.setThrottled zs).tiles = s.tiles := rfl
@[simp] theorem State.setThrottled_flt : (s.setThrottled zs).flt = s.flt := rfl
@[simp] theorem State.setThrottled_host : (s.setThrottled zs).host = s.host := rfl
@[simp] theorem State.setThrottled_integ : (s.setThrottled zs).integ = s.integ := rfl
@[simp] theorem State.setThrottled_chim : (s.setThrottled zs).chim = s.chim := rfl
@[simp] theorem State.setThrottled_pwr : (s.setThrottled zs).pwr = s.pwr := rfl
end

/-! ### setDamper -/

section
variable (s : State) (d : Damper)
@[simp] theorem State.setDamper_pending : (s.setDamper d).pending = s.pending := rfl
@[simp] theorem State.setDamper_free : (s.setDamper d).free = s.free := rfl
@[simp] theorem State.setDamper_now : (s.setDamper d).now = s.now := rfl
@[simp] theorem State.setDamper_regs : (s.setDamper d).regs = s.regs := rfl
@[simp] theorem State.setDamper_mem : (s.setDamper d).mem = s.mem := rfl
@[simp] theorem State.setDamper_pipe : (s.setDamper d).pipe = s.pipe := rfl
@[simp] theorem State.setDamper_doms : (s.setDamper d).doms = s.doms := rfl
@[simp] theorem State.setDamper_ctxs : (s.setDamper d).ctxs = s.ctxs := rfl
@[simp] theorem State.setDamper_upd : (s.setDamper d).upd = s.upd := rfl
@[simp] theorem State.setDamper_fab : (s.setDamper d).fab = s.fab := rfl
@[simp] theorem State.setDamper_tiles : (s.setDamper d).tiles = s.tiles := rfl
@[simp] theorem State.setDamper_flt : (s.setDamper d).flt = s.flt := rfl
@[simp] theorem State.setDamper_host : (s.setDamper d).host = s.host := rfl
@[simp] theorem State.setDamper_integ : (s.setDamper d).integ = s.integ := rfl
@[simp] theorem State.setDamper_chim : (s.setDamper d).chim = s.chim := rfl
@[simp] theorem State.setDamper_pwr : (s.setDamper d).pwr = s.pwr := rfl
end

/-! ### setUpd -/

section
variable (s : State) (u : Upd)
@[simp] theorem State.setUpd_pending : (s.setUpd u).pending = s.pending := rfl
@[simp] theorem State.setUpd_free : (s.setUpd u).free = s.free := rfl
@[simp] theorem State.setUpd_now : (s.setUpd u).now = s.now := rfl
@[simp] theorem State.setUpd_regs : (s.setUpd u).regs = s.regs := rfl
@[simp] theorem State.setUpd_mem : (s.setUpd u).mem = s.mem := rfl
@[simp] theorem State.setUpd_pipe : (s.setUpd u).pipe = s.pipe := rfl
@[simp] theorem State.setUpd_frame : (s.setUpd u).frame = s.frame := rfl
@[simp] theorem State.setUpd_doms : (s.setUpd u).doms = s.doms := rfl
@[simp] theorem State.setUpd_ctxs : (s.setUpd u).ctxs = s.ctxs := rfl
@[simp] theorem State.setUpd_fab : (s.setUpd u).fab = s.fab := rfl
@[simp] theorem State.setUpd_tiles : (s.setUpd u).tiles = s.tiles := rfl
@[simp] theorem State.setUpd_flt : (s.setUpd u).flt = s.flt := rfl
@[simp] theorem State.setUpd_host : (s.setUpd u).host = s.host := rfl
@[simp] theorem State.setUpd_integ : (s.setUpd u).integ = s.integ := rfl
@[simp] theorem State.setUpd_chim : (s.setUpd u).chim = s.chim := rfl
@[simp] theorem State.setUpd_pwr : (s.setUpd u).pwr = s.pwr := rfl
end

/-! ### modPort -/

section
variable (s : State) (p : Nat) (f : Port → Port)
@[simp] theorem State.modPort_pending : (s.modPort p f).pending = s.pending := rfl
@[simp] theorem State.modPort_free : (s.modPort p f).free = s.free := rfl
@[simp] theorem State.modPort_now : (s.modPort p f).now = s.now := rfl
@[simp] theorem State.modPort_regs : (s.modPort p f).regs = s.regs := rfl
@[simp] theorem State.modPort_mem : (s.modPort p f).mem = s.mem := rfl
@[simp] theorem State.modPort_pipe : (s.modPort p f).pipe = s.pipe := rfl
@[simp] theorem State.modPort_frame : (s.modPort p f).frame = s.frame := rfl
@[simp] theorem State.modPort_doms : (s.modPort p f).doms = s.doms := rfl
@[simp] theorem State.modPort_ctxs : (s.modPort p f).ctxs = s.ctxs := rfl
@[simp] theorem State.modPort_upd : (s.modPort p f).upd = s.upd := rfl
@[simp] theorem State.modPort_tiles : (s.modPort p f).tiles = s.tiles := rfl
@[simp] theorem State.modPort_flt : (s.modPort p f).flt = s.flt := rfl
@[simp] theorem State.modPort_host : (s.modPort p f).host = s.host := rfl
@[simp] theorem State.modPort_integ : (s.modPort p f).integ = s.integ := rfl
@[simp] theorem State.modPort_chim : (s.modPort p f).chim = s.chim := rfl
@[simp] theorem State.modPort_pwr : (s.modPort p f).pwr = s.pwr := rfl
end

/-! ### modColl -/

section
variable (s : State) (id : Nat) (f : Coll → Coll)
@[simp] theorem State.modColl_pending : (s.modColl id f).pending = s.pending := rfl
@[simp] theorem State.modColl_free : (s.modColl id f).free = s.free := rfl
@[simp] theorem State.modColl_now : (s.modColl id f).now = s.now := rfl
@[simp] theorem State.modColl_regs : (s.modColl id f).regs = s.regs := rfl
@[simp] theorem State.modColl_mem : (s.modColl id f).mem = s.mem := rfl
@[simp] theorem State.modColl_pipe : (s.modColl id f).pipe = s.pipe := rfl
@[simp] theorem State.modColl_frame : (s.modColl id f).frame = s.frame := rfl
@[simp] theorem State.modColl_doms : (s.modColl id f).doms = s.doms := rfl
@[simp] theorem State.modColl_ctxs : (s.modColl id f).ctxs = s.ctxs := rfl
@[simp] theorem State.modColl_upd : (s.modColl id f).upd = s.upd := rfl
@[simp] theorem State.modColl_tiles : (s.modColl id f).tiles = s.tiles := rfl
@[simp] theorem State.modColl_flt : (s.modColl id f).flt = s.flt := rfl
@[simp] theorem State.modColl_host : (s.modColl id f).host = s.host := rfl
@[simp] theorem State.modColl_integ : (s.modColl id f).integ = s.integ := rfl
@[simp] theorem State.modColl_chim : (s.modColl id f).chim = s.chim := rfl
@[simp] theorem State.modColl_pwr : (s.modColl id f).pwr = s.pwr := rfl
end

/-! ### dropColl -/

section
variable (s : State) (id : Nat)
@[simp] theorem State.dropColl_pending : (s.dropColl id).pending = s.pending := rfl
@[simp] theorem State.dropColl_free : (s.dropColl id).free = s.free := rfl
@[simp] theorem State.dropColl_now : (s.dropColl id).now = s.now := rfl
@[simp] theorem State.dropColl_regs : (s.dropColl id).regs = s.regs := rfl
@[simp] theorem State.dropColl_mem : (s.dropColl id).mem = s.mem := rfl
@[simp] theorem State.dropColl_pipe : (s.dropColl id).pipe = s.pipe := rfl
@[simp] theorem State.dropColl_frame : (s.dropColl id).frame = s.frame := rfl
@[simp] theorem State.dropColl_doms : (s.dropColl id).doms = s.doms := rfl
@[simp] theorem State.dropColl_ctxs : (s.dropColl id).ctxs = s.ctxs := rfl
@[simp] theorem State.dropColl_upd : (s.dropColl id).upd = s.upd := rfl
@[simp] theorem State.dropColl_tiles : (s.dropColl id).tiles = s.tiles := rfl
@[simp] theorem State.dropColl_flt : (s.dropColl id).flt = s.flt := rfl
@[simp] theorem State.dropColl_host : (s.dropColl id).host = s.host := rfl
@[simp] theorem State.dropColl_integ : (s.dropColl id).integ = s.integ := rfl
@[simp] theorem State.dropColl_chim : (s.dropColl id).chim = s.chim := rfl
@[simp] theorem State.dropColl_pwr : (s.dropColl id).pwr = s.pwr := rfl
end

/-! ### smokePulse -/

section
variable (s : State)
@[simp] theorem State.smokePulse_pending : (s.smokePulse).pending = s.pending := rfl
@[simp] theorem State.smokePulse_free : (s.smokePulse).free = s.free := rfl
@[simp] theorem State.smokePulse_now : (s.smokePulse).now = s.now := rfl
@[simp] theorem State.smokePulse_regs : (s.smokePulse).regs = s.regs := rfl
@[simp] theorem State.smokePulse_mem : (s.smokePulse).mem = s.mem := rfl
@[simp] theorem State.smokePulse_pipe : (s.smokePulse).pipe = s.pipe := rfl
@[simp] theorem State.smokePulse_frame : (s.smokePulse).frame = s.frame := rfl
@[simp] theorem State.smokePulse_doms : (s.smokePulse).doms = s.doms := rfl
@[simp] theorem State.smokePulse_ctxs : (s.smokePulse).ctxs = s.ctxs := rfl
@[simp] theorem State.smokePulse_upd : (s.smokePulse).upd = s.upd := rfl
@[simp] theorem State.smokePulse_fab : (s.smokePulse).fab = s.fab := rfl
@[simp] theorem State.smokePulse_tiles : (s.smokePulse).tiles = s.tiles := rfl
@[simp] theorem State.smokePulse_host : (s.smokePulse).host = s.host := rfl
@[simp] theorem State.smokePulse_integ : (s.smokePulse).integ = s.integ := rfl
@[simp] theorem State.smokePulse_chim : (s.smokePulse).chim = s.chim := rfl
@[simp] theorem State.smokePulse_pwr : (s.smokePulse).pwr = s.pwr := rfl
end

/-! ### kick -/

section
variable (s : State)
@[simp] theorem State.kick_pending : (s.kick).pending = s.pending := rfl
@[simp] theorem State.kick_free : (s.kick).free = s.free := rfl
@[simp] theorem State.kick_now : (s.kick).now = s.now := rfl
@[simp] theorem State.kick_regs : (s.kick).regs = s.regs := rfl
@[simp] theorem State.kick_mem : (s.kick).mem = s.mem := rfl
@[simp] theorem State.kick_pipe : (s.kick).pipe = s.pipe := rfl
@[simp] theorem State.kick_frame : (s.kick).frame = s.frame := rfl
@[simp] theorem State.kick_doms : (s.kick).doms = s.doms := rfl
@[simp] theorem State.kick_ctxs : (s.kick).ctxs = s.ctxs := rfl
@[simp] theorem State.kick_upd : (s.kick).upd = s.upd := rfl
@[simp] theorem State.kick_fab : (s.kick).fab = s.fab := rfl
@[simp] theorem State.kick_tiles : (s.kick).tiles = s.tiles := rfl
@[simp] theorem State.kick_host : (s.kick).host = s.host := rfl
@[simp] theorem State.kick_integ : (s.kick).integ = s.integ := rfl
@[simp] theorem State.kick_chim : (s.kick).chim = s.chim := rfl
@[simp] theorem State.kick_pwr : (s.kick).pwr = s.pwr := rfl
end

/-! ### setFreq -/

section
variable (s : State) (z c : Nat)
@[simp] theorem State.setFreq_pending : (s.setFreq z c).pending = s.pending := rfl
@[simp] theorem State.setFreq_free : (s.setFreq z c).free = s.free := rfl
@[simp] theorem State.setFreq_now : (s.setFreq z c).now = s.now := rfl
@[simp] theorem State.setFreq_mem : (s.setFreq z c).mem = s.mem := rfl
@[simp] theorem State.setFreq_pipe : (s.setFreq z c).pipe = s.pipe := rfl
@[simp] theorem State.setFreq_frame : (s.setFreq z c).frame = s.frame := rfl
@[simp] theorem State.setFreq_doms : (s.setFreq z c).doms = s.doms := rfl
@[simp] theorem State.setFreq_ctxs : (s.setFreq z c).ctxs = s.ctxs := rfl
@[simp] theorem State.setFreq_upd : (s.setFreq z c).upd = s.upd := rfl
@[simp] theorem State.setFreq_fab : (s.setFreq z c).fab = s.fab := rfl
@[simp] theorem State.setFreq_tiles : (s.setFreq z c).tiles = s.tiles := rfl
@[simp] theorem State.setFreq_flt : (s.setFreq z c).flt = s.flt := rfl
@[simp] theorem State.setFreq_host : (s.setFreq z c).host = s.host := rfl
@[simp] theorem State.setFreq_integ : (s.setFreq z c).integ = s.integ := rfl
@[simp] theorem State.setFreq_chim : (s.setFreq z c).chim = s.chim := rfl
@[simp] theorem State.setFreq_pwr : (s.setFreq z c).pwr = s.pwr := rfl
end

/-! ### setPba -/

section
variable (s : State) (v : Nat) (b : Bool)
@[simp] theorem State.setPba_pending : (s.setPba v b).pending = s.pending := rfl
@[simp] theorem State.setPba_free : (s.setPba v b).free = s.free := rfl
@[simp] theorem State.setPba_now : (s.setPba v b).now = s.now := rfl
@[simp] theorem State.setPba_mem : (s.setPba v b).mem = s.mem := rfl
@[simp] theorem State.setPba_pipe : (s.setPba v b).pipe = s.pipe := rfl
@[simp] theorem State.setPba_frame : (s.setPba v b).frame = s.frame := rfl
@[simp] theorem State.setPba_doms : (s.setPba v b).doms = s.doms := rfl
@[simp] theorem State.setPba_ctxs : (s.setPba v b).ctxs = s.ctxs := rfl
@[simp] theorem State.setPba_upd : (s.setPba v b).upd = s.upd := rfl
@[simp] theorem State.setPba_fab : (s.setPba v b).fab = s.fab := rfl
@[simp] theorem State.setPba_tiles : (s.setPba v b).tiles = s.tiles := rfl
@[simp] theorem State.setPba_flt : (s.setPba v b).flt = s.flt := rfl
@[simp] theorem State.setPba_host : (s.setPba v b).host = s.host := rfl
@[simp] theorem State.setPba_integ : (s.setPba v b).integ = s.integ := rfl
@[simp] theorem State.setPba_chim : (s.setPba v b).chim = s.chim := rfl
@[simp] theorem State.setPba_pwr : (s.setPba v b).pwr = s.pwr := rfl
end

end Sys2Proof.Machine
end

