-- ==== Sys2Proof/Laws/Tab.lean ====
section
/-!
SUPPORT. Laws of sparse tables: what a store changes, and that every operation keeps the canonical form.
-/
namespace Sys2Proof.Machine

variable {α : Type} {d : Nat → α} {t : Tab α} {b k j : Nat} {v : α}

theorem Tab.above_mono {c : Nat} (h : Tab.above b t = true) (hc : c ≤ b) : Tab.above c t = true := by
  simp only [Tab.above, List.all_eq_true, decide_eq_true_eq] at *
  intro e he; have := h e he; omega

/-- A number at or below every listed one is unlisted. -/
theorem Tab.get_of_above (h : Tab.above b t = true) (hk : k ≤ b) : Tab.get d t k = d k := by
  induction t with
  | nil => rfl
  | cons e t ih =>
    simp only [Tab.above, List.all_cons, Bool.and_eq_true, decide_eq_true_eq] at h
    rw [Tab.get, if_neg (by omega)]
    exact ih (by simpa [Tab.above] using h.2)

theorem Tab.filter_ne_of_above (h : Tab.above b t = true) (hk : k ≤ b) : t.filter (fun e => e.1 != k) = t := by
  rw [List.filter_eq_self]
  intro e he
  simp only [Tab.above, List.all_eq_true, decide_eq_true_eq] at h
  have := h e he
  simp only [bne_iff_ne, ne_eq]; omega

theorem Tab.get_filter_ne (hj : j ≠ k) : Tab.get d (t.filter (fun e => e.1 != k)) j = Tab.get d t j := by
  induction t with
  | nil => rfl
  | cons e t ih =>
    rw [List.filter_cons]
    by_cases h : e.1 = k
    · rw [if_neg (by simp [h]), ih]
      simp [Tab.get, h, Ne.symm hj]
    · rw [if_pos (by simpa using h)]
      simp only [Tab.get, ih]

theorem Tab.above_filter (p : Nat × α → Bool) (h : Tab.above b t = true) : Tab.above b (t.filter p) = true := by
  simp only [Tab.above, List.all_eq_true, List.mem_filter] at *
  rintro e ⟨he, -⟩
  exact h e he

variable [DecidableEq α]

theorem Tab.above_set (h : Tab.above b t = true) (hk : b < k) : Tab.above b (Tab.set d t k v) = true := by
  induction t with
  | nil => simp only [Tab.set]; split <;> simp [Tab.above, hk]
  | cons e t ih =>
    simp only [Tab.above, List.all_cons, Bool.and_eq_true, decide_eq_true_eq, List.all_eq_true] at h
    have ht : Tab.above b t = true := by simpa [Tab.above] using h.2
    obtain ⟨e1, e2⟩ := e
    simp only [Tab.set]
    split
    · split
      · simp only [Tab.above, List.all_eq_true, List.mem_filter, decide_eq_true_eq]
        rintro x ⟨hx, -⟩
        cases hx with
        | head => exact h.1
        | tail _ hx => exact h.2 x hx
      · simp only [Tab.above, List.all_cons, Bool.and_eq_true, decide_eq_true_eq, List.all_eq_true]
        exact ⟨hk, h.1, h.2⟩
    · split
      · split
        · simp only [Tab.above, List.all_eq_true, List.mem_filter, decide_eq_true_eq]
          rintro x ⟨hx, -⟩
          exact h.2 x hx
        · simp only [Tab.above, List.all_cons, Bool.and_eq_true, decide_eq_true_eq, List.all_eq_true]
          exact ⟨hk, h.2⟩
      · simp only [Tab.above, List.all_cons, Bool.and_eq_true, decide_eq_true_eq]
        exact ⟨h.1, by simpa [Tab.above] using ih ht⟩

/-- A store keeps the canonical form. -/
theorem Tab.wf_set (h : Tab.wf d t = true) : Tab.wf d (Tab.set d t k v) = true := by
  induction t with
  | nil => simp only [Tab.set]; split <;> simp_all [Tab.wf, Tab.above]
  | cons e t ih =>
    obtain ⟨e1, e2⟩ := e
    simp only [Tab.wf, Bool.and_eq_true, decide_eq_true_eq] at h
    obtain ⟨ha, he, ht⟩ := h
    simp only [Tab.set]
    split
    · rename_i hk
      split
      · rw [show (((e1, e2) :: t).filter (fun e => e.1 != k)) = (e1, e2) :: t from
          Tab.filter_ne_of_above (b := k) (by
            simp only [Tab.above, List.all_cons, Bool.and_eq_true, decide_eq_true_eq]
            exact ⟨hk, by simpa [Tab.above] using Tab.above_mono ha (by omega : k ≤ e1)⟩) (Nat.le_refl k)]
        simp [Tab.wf, ha, he, ht]
      · rename_i hv
        simp only [Tab.wf, Tab.above, List.all_cons, Bool.and_eq_true, decide_eq_true_eq]
        exact ⟨⟨hk, by simpa [Tab.above] using Tab.above_mono ha (by omega : k ≤ e1)⟩, hv, by simpa [Tab.above] using ha, he, ht⟩
    · split
      · rename_i hk
        split
        · rw [Tab.filter_ne_of_above ha (by omega)]; exact ht
        · rename_i hv
          simp only [Tab.wf, Bool.and_eq_true, decide_eq_true_eq]
          exact ⟨by rw [hk]; exact ha, hv, ht⟩
      · rename_i h1 h2
        simp only [Tab.wf, Bool.and_eq_true, decide_eq_true_eq]
        exact ⟨Tab.above_set ha (by omega), he, ih ht⟩

omit [DecidableEq α] in
theorem Tab.get_filter_self : Tab.get d (t.filter (fun e => e.1 != k)) k = d k := by
  induction t with
  | nil => rfl
  | cons e t ih =>
    rw [List.filter_cons]
    by_cases h : e.1 = k
    · rw [if_neg (by simp [h]), ih]
    · rw [if_pos (by simpa using h), Tab.get, if_neg h, ih]

/-- What a store leaves at the number stored to. -/
theorem Tab.get_set_same : Tab.get d (Tab.set d t k v) k = v := by
  induction t with
  | nil => simp only [Tab.set]; split <;> simp_all [Tab.get]
  | cons e t ih =>
    obtain ⟨e1, e2⟩ := e
    simp only [Tab.set]
    split
    · split
      · rename_i hv; rw [Tab.get_filter_self, hv]
      · simp [Tab.get]
    · split
      · split
        · rename_i hv; rw [Tab.get_filter_self, hv]
        · simp [Tab.get]
      · rw [Tab.get, if_neg (by omega)]; exact ih

/-- A store leaves every other number as it is. -/
theorem Tab.get_set_ne (hj : j ≠ k) : Tab.get d (Tab.set d t k v) j = Tab.get d t j := by
  induction t with
  | nil =>
    simp only [Tab.set]
    split
    · rfl
    · simp [Tab.get, Ne.symm hj]
  | cons e t ih =>
    obtain ⟨e1, e2⟩ := e
    simp only [Tab.set]
    split
    · split
      · exact Tab.get_filter_ne hj
      · rw [Tab.get, if_neg (by omega)]
    · split
      · rename_i hk
        split
        · rw [Tab.get_filter_ne hj, Tab.get, if_neg (by omega)]
        · rw [Tab.get, if_neg (by omega), Tab.get, if_neg (by omega)]
      · simp only [Tab.get, ih]

/-- Storing a run of values keeps the canonical form. -/
theorem Tab.wf_setList (vs : List α) : ∀ (t : Tab α) (k : Nat), Tab.wf d t = true → Tab.wf d (Tab.setList d t k vs) = true := by
  induction vs with
  | nil => intro t k h; exact h
  | cons v vs ih => intro t k h; exact ih _ _ (Tab.wf_set h)

/-- A run of values leaves every number outside it as it is. -/
theorem Tab.get_setList_ne (vs : List α) : ∀ (t : Tab α) (k j : Nat), j < k ∨ k + vs.length ≤ j →
    Tab.get d (Tab.setList d t k vs) j = Tab.get d t j := by
  induction vs with
  | nil => intro t k j _; rfl
  | cons v vs ih =>
    intro t k j h
    simp only [List.length_cons] at h
    rw [Tab.setList, ih _ _ _ (by omega), Tab.get_set_ne (by omega)]

/-- What a run of values leaves at the numbers it covers. -/
theorem Tab.get_setList_in (vs : List α) : ∀ (t : Tab α) (k i : Nat), (h : i < vs.length) →
    Tab.get d (Tab.setList d t k vs) (k + i) = vs[i] := by
  induction vs with
  | nil => intro t k i h; simp at h
  | cons v vs ih =>
    intro t k i h
    cases i with
    | zero => rw [Tab.setList, Tab.get_setList_ne _ _ _ _ (by omega), Nat.add_zero, Tab.get_set_same]; rfl
    | succ i =>
      rw [Tab.setList, show k + (i + 1) = (k + 1) + i by omega, ih _ _ _ (by simpa using h)]
      rfl

/-- Dropping entries keeps the canonical form. -/
theorem Tab.wf_filter (p : Nat × α → Bool) (h : Tab.wf d t = true) : Tab.wf d (t.filter p) = true := by
  induction t with
  | nil => rfl
  | cons e t ih =>
    obtain ⟨e1, e2⟩ := e
    simp only [Tab.wf, Bool.and_eq_true] at h
    rw [List.filter_cons]
    split
    · simp only [Tab.wf, Bool.and_eq_true]
      exact ⟨Tab.above_filter p h.1, h.2.1, ih h.2.2⟩
    · exact ih h.2.2

theorem Tab.wf_dropRange (lo n : Nat) (h : Tab.wf d t = true) : Tab.wf d (Tab.dropRange t lo n) = true := Tab.wf_filter _ h

end Sys2Proof.Machine
end

