-- ==== Sys2Proof/Laws/Regs.lean ====
section
/-!
SUPPORT. Laws of bit fields, of registers and of the accessors of queues, rings, runs and tallies: what is read back after a
store, and what a store elsewhere leaves.
-/
namespace Sys2Proof.Machine

/-! ### Fields of a word -/

theorem fbit_setFld_out (x : W64) (hi lo v i : Nat) (h : i < lo ∨ hi < i) (hi' : lo ≤ hi) : fbit (setFld x hi lo v) i = fbit x i := by
  simp only [fbit, setFld, maskW, BitVec.getLsbD_or, BitVec.getLsbD_and, BitVec.getLsbD_not, BitVec.getLsbD_ofNat, Nat.testBit_shiftLeft,
    Nat.testBit_two_pow_sub_one]
  by_cases h64 : i < 64
  · rcases h with h | h
    · simp [h64, show ¬ lo ≤ i by omega]
    · simp [h64, show ¬ i - lo < hi + 1 - lo by omega]
  · simp [h64, BitVec.getLsbD_of_ge x i (by omega)]

theorem fbit_setFld_in (x : W64) (hi lo v i : Nat) (h : lo ≤ i) (hi' : i ≤ hi) (h64 : i < 64) :
    fbit (setFld x hi lo v) i = v.testBit (i - lo) := by
  simp only [fbit, setFld, maskW, BitVec.getLsbD_or, BitVec.getLsbD_and, BitVec.getLsbD_not, BitVec.getLsbD_ofNat, Nat.testBit_shiftLeft,
    Nat.testBit_two_pow_sub_one]
  simp [h, h64, show i - lo < hi + 1 - lo by omega]

theorem fbit_setFld_bit (x : W64) (i : Nat) (b : Bool) (h : i < 64) : fbit (setFld x i i (b2n b)) i = b := by
  rw [fbit_setFld_in x i i _ i (Nat.le_refl _) (Nat.le_refl _) h]
  cases b <;> simp [b2n]

theorem testBit_fld (x : W64) (hi lo i : Nat) : (fld x hi lo).testBit i = (decide (i < hi + 1 - lo) && fbit x (lo + i)) := by
  simp only [fld, bits, fbit, Nat.testBit_mod_two_pow, Nat.testBit_shiftRight]
  rw [BitVec.testBit_toNat]

/-- A field reads back what was put into it. -/
theorem fld_setFld_same (x : W64) (hi lo v : Nat) (h : lo ≤ hi) (h64 : hi < 64) (hv : v < 2 ^ (hi + 1 - lo)) :
    fld (setFld x hi lo v) hi lo = v := by
  apply Nat.eq_of_testBit_eq
  intro i
  rw [testBit_fld]
  by_cases hb : i < hi + 1 - lo
  · rw [fbit_setFld_in x hi lo v (lo + i) (by omega) (by omega) (by omega)]
    simp [hb]
  · simp only [hb, decide_false, Bool.false_and]
    exact (Nat.testBit_lt_two_pow (Nat.lt_of_lt_of_le hv (Nat.pow_le_pow_right (by omega) (by omega)))).symm

/-- A field leaves every other field of the word as it is. -/
theorem fld_setFld_ne (x : W64) (hi lo v h2 l2 : Nat) (h : lo ≤ hi) (hd : h2 < lo ∨ hi < l2) :
    fld (setFld x hi lo v) h2 l2 = fld x h2 l2 := by
  apply Nat.eq_of_testBit_eq
  intro i
  rw [testBit_fld, testBit_fld]
  by_cases hb : i < h2 + 1 - l2
  · rw [fbit_setFld_out x hi lo v (l2 + i) (by omega) h]
  · simp [hb]

theorem fld_lt (x : W64) (hi lo : Nat) : fld x hi lo < 2 ^ (hi + 1 - lo) := Nat.mod_lt _ (Nat.two_pow_pos _)

/-! ### Registers -/

theorem State.regsWf_reset : State.reset.RegsWf := rfl

theorem State.regsWf_setReg {s : State} {off : Nat} {v : W64} (h : s.RegsWf) : (s.setReg off v).RegsWf := Tab.wf_set h
theorem State.regsWf_setRf {s : State} {off hi lo v : Nat} (h : s.RegsWf) : (s.setRf off hi lo v).RegsWf := Tab.wf_set h
theorem State.regsWf_setRb {s : State} {off i : Nat} {b : Bool} (h : s.RegsWf) : (s.setRb off i b).RegsWf := Tab.wf_set h
theorem State.regsWf_bump {s : State} {off n : Nat} (h : s.RegsWf) : (s.bump off n).RegsWf := Tab.wf_set h

theorem State.regsWf_setRegs (ws : List W64) : ∀ (s : State) (off : Nat), s.RegsWf → (s.setRegs off ws).RegsWf := by
  induction ws with
  | nil => intro s off h; exact h
  | cons w ws ih => intro s off h; exact ih _ _ (State.regsWf_setReg h)

/-- A register holds what was stored. -/
theorem State.reg_setReg_same {s : State} {off : Nat} {v : W64} : (s.setReg off v).reg off = v := Tab.get_set_same

/-- A store leaves every other register. -/
theorem State.reg_setReg_ne {s : State} {off a : Nat} {v : W64} (h : a ≠ off) : (s.setReg off v).reg a = s.reg a := Tab.get_set_ne h

theorem State.reg_setRf_same {s : State} {off hi lo v : Nat} : (s.setRf off hi lo v).reg off = setFld (s.reg off) hi lo v :=
  State.reg_setReg_same
theorem State.reg_setRf_ne {s : State} {off a hi lo v : Nat} (h : a ≠ off) : (s.setRf off hi lo v).reg a = s.reg a := State.reg_setReg_ne h
theorem State.reg_setRb_ne {s : State} {off a i : Nat} {b : Bool} (h : a ≠ off) : (s.setRb off i b).reg a = s.reg a := State.reg_setReg_ne h
theorem State.reg_bump_ne {s : State} {off a n : Nat} (h : a ≠ off) : (s.bump off n).reg a = s.reg a := State.reg_setReg_ne h

/-- A field reads back what was put into it. -/
theorem State.rf_setRf_same {s : State} {off hi lo v : Nat} (h : lo ≤ hi) (h64 : hi < 64) (hv : v < 2 ^ (hi + 1 - lo)) :
    (s.setRf off hi lo v).rf off hi lo = v := by
  rw [State.rf, State.reg_setRf_same, fld_setFld_same _ _ _ _ h h64 hv]

theorem State.rb_setRb_same {s : State} {off i : Nat} {b : Bool} (h : i < 64) : (s.setRb off i b).rb off i = b := by
  show fbit ((s.setRf off i i (b2n b)).reg off) i = b
  rw [State.reg_setRf_same, fbit_setFld_bit _ _ _ h]

/-- A counter that is no term of a ledger adds and stops at 2^48 - 1 (R472). -/
theorem State.reg_bump_counter {s : State} {off n : Nat} (h : isLedgerTerm off = false) :
    (s.bump off n).reg off = BitVec.ofNat 64 (min ((s.reg off).toNat + n) (2 ^ 48 - 1)) := by
  show (s.setReg off _).reg off = _
  rw [State.reg_setReg_same, h]; rfl

/-- A counter that is a term of a ledger counts modulo 2^48 (R472). -/
theorem State.reg_bump_term {s : State} {off n : Nat} (h : isLedgerTerm off = true) :
    (s.bump off n).reg off = BitVec.ofNat 64 (((s.reg off).toNat + n) % 2 ^ 48) := by
  show (s.setReg off _).reg off = _
  rw [State.reg_setReg_same, h]; rfl

/-! ### Domains, queues, rings, tallies -/

theorem State.dom_modDom_ne {s : State} {d d' : Nat} {f : Dom → Dom} (h : d' ≠ d) : (s.modDom d f).dom d' = s.dom d' := Tab.get_set_ne h
theorem State.dom_modDom_same {s : State} {d : Nat} {f : Dom → Dom} : (s.modDom d f).dom d = f (s.dom d) := Tab.get_set_same
theorem State.queue_setQueue_ne {s : State} {q q' : Nat} {v : Queue} (h : q' ≠ q) : (s.setQueue q v).queue q' = s.queue q' := Tab.get_set_ne h
theorem State.queue_setQueue_same {s : State} {q : Nat} {v : Queue} : (s.setQueue q v).queue q = v := Tab.get_set_same
theorem State.tally_setTally_ne {s : State} {t t' : Nat} {v : BitVec 48} (h : t' ≠ t) : (s.setTally t v).tally t' = s.tally t' :=
  Tab.get_set_ne h
theorem State.tally_setTally_same {s : State} {t : Nat} {v : BitVec 48} : (s.setTally t v).tally t = v := Tab.get_set_same

/-- A signal adds to its tally modulo 2^48 (R409). -/
theorem State.tally_signalTally {s : State} {t a : Nat} : (s.signalTally t a).tally t = s.tally t + BitVec.ofNat 48 a :=
  State.tally_setTally_same

/-- A signal leaves every other tally. -/
theorem State.tally_signalTally_ne {s : State} {t t' a : Nat} (h : t' ≠ t) : (s.signalTally t a).tally t' = s.tally t' :=
  State.tally_setTally_ne h

end Sys2Proof.Machine
end

