-- ==== Sys2Proof/Laws/Mem.lean ====
section
/-!
SUPPORT. Laws of memory: every operation keeps the canonical form, and what an operation leaves alone.
-/
namespace Sys2Proof.Machine

/-- The canonical form, table by table. -/
theorem Mem.wf_iff {m : Mem} : m.wf = true ↔
    Tab.wf byteReset m.stack = true ∧ Tab.wf wordReset m.valid = true ∧ Tab.wf boolReset m.vpoison = true ∧
    Tab.wf byteReset m.serr = true ∧ Tab.wf byteReset m.tile = true ∧ Tab.wf boolReset m.tpoison = true ∧
    Tab.wf errReset m.terr = true ∧ Tab.wf listReset m.wbq = true := by
  simp only [Mem.wf, Bool.and_eq_true, and_assoc]

/-- The canonical form of a state's memory. -/
abbrev State.MemWf (s : State) : Prop := s.mem.wf = true

theorem State.memWf_reset : State.reset.MemWf := by decide

variable {m : Mem} {b n k dpa t : Nat}

theorem Mem.wf_setVbit {v : Bool} (h : m.wf = true) : (m.setVbit b v).wf = true := by
  rw [Mem.wf_iff] at *; exact ⟨h.1, Tab.wf_set h.2.1, h.2.2⟩

theorem Mem.wf_settle (h : m.wf = true) : (m.settle k).wf = true := by
  unfold Mem.settle
  split
  · rw [Mem.wf_iff] at *; exact ⟨h.1, Tab.wf_set h.2.1, Tab.wf_set h.2.2.1, h.2.2.2⟩
  · exact h

theorem Mem.wf_markValid (h : m.wf = true) : (m.markValid b).wf = true := by
  unfold Mem.markValid
  split
  · exact Mem.wf_settle (Mem.wf_setVbit h)
  · exact Mem.wf_setVbit h

theorem Mem.wf_clearErr (h : m.wf = true) : (m.clearErr b).wf = true := by
  rw [Mem.wf_iff] at *; exact ⟨h.1, h.2.1, h.2.2.1, Tab.wf_dropRange _ _ h.2.2.2.1, h.2.2.2.2⟩

theorem Mem.wf_putBytes {bs : List Byte} (h : m.wf = true) : (m.putBytes dpa bs).wf = true := by
  rw [Mem.wf_iff] at *; exact ⟨Tab.wf_setList _ _ _ h.1, h.2⟩

theorem Mem.wf_poisonBlk (h : m.wf = true) : (m.poisonBlk b).wf = true := Mem.wf_markValid (Mem.wf_clearErr (Mem.wf_putBytes h))

theorem Mem.wf_clearBlk (h : m.wf = true) : (m.clearBlk b).wf = true := by
  have h1 : (({ m with stack := Tab.dropRange m.stack (256 * b) 256 } : Mem).clearErr b).wf = true := by
    apply Mem.wf_clearErr
    rw [Mem.wf_iff] at *; exact ⟨Tab.wf_dropRange _ _ h.1, h.2⟩
  unfold Mem.clearBlk
  simp only
  split
  · exact Mem.wf_settle (Mem.wf_setVbit h1)
  · exact Mem.wf_setVbit h1

theorem wf_foldl {α β : Type} (p : β → Prop) (f : β → α → β) (hf : ∀ x a, p x → p (f x a)) (l : List α) :
    ∀ x, p x → p (l.foldl f x) := by
  induction l with
  | nil => intro x h; exact h
  | cons a l ih => intro x h; exact ih _ (hf _ _ h)

theorem Mem.wf_clearBlks (h : m.wf = true) : (m.clearBlks b n).wf = true := by
  unfold Mem.clearBlks
  simp only
  apply wf_foldl (fun x : Mem => x.wf = true)
  · intro x w hx
    split
    · apply wf_foldl (fun x : Mem => x.wf = true)
      · intro y i hy
        split
        · exact Mem.wf_clearBlk hy
        · exact hy
      · exact hx
    · exact hx
  · rw [Mem.wf_iff] at *
    exact ⟨Tab.wf_dropRange _ _ h.1, h.2.1, h.2.2.1, Tab.wf_dropRange _ _ h.2.2.2.1, h.2.2.2.2⟩

theorem Mem.wf_putWord {v : W64} {p : Bool} (h : m.wf = true) : (m.putWord k v p).wf = true := by
  unfold Mem.putWord
  rw [Mem.wf_iff] at *
  refine ⟨h.1, h.2.1, h.2.2.1, h.2.2.2.1, Tab.wf_setList _ _ _ h.2.2.2.2.1, Tab.wf_set h.2.2.2.2.2.1, Tab.wf_set h.2.2.2.2.2.2.1, ?_⟩
  simp only
  split
  · exact Tab.wf_set h.2.2.2.2.2.2.2
  · exact h.2.2.2.2.2.2.2

theorem Mem.wf_zeroTile (h : m.wf = true) : (m.zeroTile t).wf = true := by
  rw [Mem.wf_iff] at *
  exact ⟨h.1, h.2.1, h.2.2.1, h.2.2.2.1, Tab.wf_dropRange _ _ h.2.2.2.2.1, Tab.wf_dropRange _ _ h.2.2.2.2.2.1,
    Tab.wf_dropRange _ _ h.2.2.2.2.2.2.1, Tab.wf_dropRange _ _ h.2.2.2.2.2.2.2⟩

theorem Mem.wf_xorSym {v : Byte} (h : m.wf = true) : (m.xorSym k n v).wf = true := by
  rw [Mem.wf_iff] at *; exact ⟨h.1, h.2.1, h.2.2.1, Tab.wf_set h.2.2.2.1, h.2.2.2.2⟩

theorem Mem.wf_upset {u : Upset} (h : m.wf = true) : (m.upset u).wf = true := by
  cases u with
  | stackSym dpa die v =>
    simp only [Mem.upset]
    split
    · exact Mem.wf_xorSym h
    · exact h
  | stackBlk dpa die v =>
    simp only [Mem.upset]
    split
    · exact wf_foldl (fun x : Mem => x.wf = true) _ (fun x a hx => Mem.wf_xorSym hx) _ _ h
    · exact h
  | tileWord t off pat =>
    simp only [Mem.upset]
    split
    · rw [Mem.wf_iff] at *
      exact ⟨h.1, h.2.1, h.2.2.1, h.2.2.2.1, h.2.2.2.2.1, h.2.2.2.2.2.1, Tab.wf_set h.2.2.2.2.2.2.1, h.2.2.2.2.2.2.2⟩
    · exact h
  | sramWord w n pat => exact h
  | datapath u => exact h
  | crossing dpa p => exact h

theorem Mem.wf_loseMap (h : m.wf = true) : (m.loseMap k).wf = true := by
  rw [Mem.wf_iff] at *; exact ⟨h.1, Tab.wf_set h.2.1, Tab.wf_set h.2.2.1, h.2.2.2⟩

theorem Mem.wf_flipMap (h : m.wf = true) : (m.flipMap k n).wf = true := by
  rw [Mem.wf_iff] at *; exact ⟨h.1, Tab.wf_set h.2.1, Tab.wf_set h.2.2.1, h.2.2.2⟩

theorem Mem.wf_fresh (h : m.wf = true) : (m.fresh b).wf = true := by
  unfold Mem.fresh
  split
  · exact h
  · rw [Mem.wf_iff] at *; exact ⟨Tab.wf_dropRange _ _ h.1, h.2⟩

theorem Mem.wf_storeBlk {bs : List (Nat × Byte)} (h : m.wf = true) : (m.storeBlk b bs).wf = true :=
  Mem.wf_markValid (Mem.wf_clearErr (wf_foldl (fun x : Mem => x.wf = true) _ (fun _ _ hx => Mem.wf_putBytes hx) _ _ (Mem.wf_fresh h)))

/-! ### Operations of the state -/

variable {s : State} {e : Env} {w : By}

theorem State.memWf_upsets (h : s.MemWf) : (s.upsets e).MemWf :=
  wf_foldl (fun x : Mem => x.wf = true) _ (fun _ _ hx => Mem.wf_upset hx) _ _ h

/-- The record of an event touches no memory. -/
@[simp] theorem State.toRing_mem {cls : Nat} {ws : List W64} : (s.toRing cls ws).mem = s.mem := by
  simp only [State.toRing, apply_ite State.mem, State.bump_mem, State.setRf_mem, State.post_mem, ite_self]

@[simp] theorem State.setRegs_mem (ws : List W64) : ∀ (s : State) (off : Nat), (s.setRegs off ws).mem = s.mem := by
  induction ws with
  | nil => intro s off; rfl
  | cons w ws ih => intro s off; rw [State.setRegs, ih]; rfl

@[simp] theorem State.latch_mem {v : Ev} {ws : List W64} : (s.latch v ws).mem = s.mem := by
  unfold State.latch
  extract_lets t
  have ht : t.mem = s.mem := by
    unfold t; split
    · rw [State.setRb_mem, State.setRegs_mem]
    · rfl
  split
  · rw [State.setRegs_mem, ht]
  · exact ht

@[simp] theorem State.record_mem {v : Ev} {n : Nat} : (s.record v n).mem = s.mem := by
  unfold State.record
  rw [State.toRing_mem]
  exact State.latch_mem

@[simp] theorem State.minor_mem {v : Ev} : (s.minor v).mem = s.mem := by
  unfold State.minor
  extract_lets cls s1 _ _ s2
  have h1 : s1.mem = s.mem := rfl
  split
  · exact h1
  · split
    · exact h1
    · rw [State.record_mem]; exact h1

@[simp] theorem State.corrected_mem {a k n : Nat} : (s.corrected n a k w).mem = s.mem := State.minor_mem

theorem State.memWf_mapWord {r : (ScrubStore × Nat) × BitVec 80} (h : s.MemWf) : (s.mapWord r k).MemWf := by
  unfold State.mapWord
  extract_lets u
  split
  · exact Mem.wf_loseMap h
  · exact Mem.wf_flipMap h
  · exact Mem.wf_flipMap h

theorem State.memWf_seeMap (h : s.MemWf) : (s.seeMap b).MemWf := by
  unfold State.seeMap
  split
  · exact State.memWf_mapWord h
  · exact h

theorem State.memWf_seeMaps (h : s.MemWf) : (s.seeMaps b n).MemWf := by
  unfold State.seeMaps
  refine wf_foldl (fun x : State => x.MemWf) _ (fun x a hx => ?_) _ _ h
  split
  · split
    · exact State.memWf_mapWord hx
    · exact hx
  · exact hx

@[simp] theorem State.wroteMap_mem : (s.wroteMap b).mem = s.mem := by
  unfold State.wroteMap
  split <;> rfl

@[simp] theorem X.crossed_mem (x : X) : x.crossed.mem = x.s.mem := by
  unfold X.crossed
  split <;> rfl

@[simp] theorem State.retries_mem {c : Cross} : (s.retries b c w).mem = s.mem := by
  unfold State.retries
  split
  · rfl
  · rw [State.corrected_mem]; rfl

theorem State.memWf_readBlk (h : s.MemWf) : (s.readBlk e b w).1.MemWf := by
  have h0 : (s.seeMap b).MemWf := State.memWf_seeMap h
  unfold State.readBlk
  extract_lets st s0 c s1 s2 d _ s3
  have h2 : s2.mem = s0.mem := by
    unfold s2 s1; split <;> simp only [State.retries_mem]
  have h3 : s3.mem = s2.mem := by
    unfold s3
    generalize d = o
    cases o <;> first | rfl | (show State.mem (State.corrected _ _ _ _ _) = _; rw [State.corrected_mem]; rfl)
  split
  · show Mem.wf (Mem.poisonBlk _ _) = true
    exact Mem.wf_poisonBlk (by rw [h2]; exact h0)
  · show Mem.wf s3.mem = true
    rw [h3, h2]; exact h0

theorem State.memWf_normBlk (h : s.MemWf) : (s.normBlk b).MemWf := by
  unfold State.normBlk
  split
  · exact Mem.wf_clearErr (Mem.wf_putBytes h)
  · exact h

theorem State.memWf_mergeBlk {bs : List (Nat × Byte)} (h : s.MemWf) : (s.mergeBlk b bs).MemWf :=
  Mem.wf_storeBlk (State.memWf_normBlk h)

theorem State.memWf_writeBlk {bs : List (Nat × Byte)} (h : s.MemWf) : (s.writeBlk b bs w).1.MemWf := by
  have h0 : (s.seeMap b).MemWf := State.memWf_seeMap h
  unfold State.writeBlk
  simp only
  split
  · exact Mem.wf_storeBlk h0
  · split
    · exact State.memWf_readBlk h0
    · exact State.memWf_mergeBlk (State.memWf_readBlk h0)

theorem Mem.wf_wbq {j : Nat} {l : List Nat} (h : m.wf = true) : ({ m with wbq := Tab.set listReset m.wbq j l } : Mem).wf = true := by
  rw [Mem.wf_iff] at *
  exact ⟨h.1, h.2.1, h.2.2.1, h.2.2.2.1, h.2.2.2.2.1, h.2.2.2.2.2.1, h.2.2.2.2.2.2.1, Tab.wf_set h.2.2.2.2.2.2.2⟩

theorem State.memWf_readWord (h : s.MemWf) : (s.readWord k w).1.MemWf := by
  unfold State.readWord
  split
  · exact h
  · rename_i v p f _
    extract_lets s1 q _ m
    have h1 : s1.mem = s.mem := by unfold s1; rw [State.corrected_mem]; rfl
    show Mem.wf m = true
    unfold m; split
    · exact Mem.wf_wbq (by show Mem.wf s1.mem = true; rw [h1]; exact h)
    · rw [h1]; exact h
  · exact Mem.wf_putWord h

theorem State.memWf_writeWord {bs : List (Nat × Byte × Bool)} (h : s.MemWf) : (s.writeWord k bs w).MemWf := by
  unfold State.writeWord
  simp only
  split
  · exact Mem.wf_putWord h
  · split
    · exact Mem.wf_putWord h
    · split
      · exact State.memWf_readWord h
      · exact Mem.wf_putWord (State.memWf_readWord h)

theorem State.memWf_flushBlk {g : Nat × List (Nat × Byte × Bool)} (h : s.MemWf) : (flushBlk s g).MemWf := by
  unfold flushBlk
  split
  · exact Mem.wf_poisonBlk (State.memWf_seeMap h)
  · exact State.memWf_writeBlk h

theorem State.memWf_flushSeen {seen halves : List Nat} {a : State × List Nat} {g : Nat × List (Nat × Byte × Bool)} (h : a.1.MemWf) :
    (flushSeen e seen halves w a g).1.MemWf := by
  unfold flushSeen
  extract_lets c u
  have hu : u.MemWf := by
    show Mem.wf u.mem = true
    unfold u; rw [State.retries_mem]; exact State.memWf_seeMap h
  split
  · exact hu
  · split
    · exact Mem.wf_poisonBlk hu
    · split
      · exact Mem.wf_poisonBlk hu
      · exact State.memWf_mergeBlk (by show Mem.wf _ = true; rw [State.wroteMap_mem]; exact hu)

/-- A block that an execution decodes keeps the canonical form. -/
theorem X.memWf_touchBlk {x : X} (h : x.s.MemWf) : (x.touchBlk b).s.MemWf := by
  unfold X.touchBlk
  split
  · exact h
  · exact State.memWf_readBlk h

theorem X.memWf_mergeReads {x : X} (h : x.s.MemWf) : x.mergeReads.s.MemWf :=
  wf_foldl (fun y : X => y.s.MemWf) _ (fun _ _ hy => X.memWf_touchBlk hy) _ _ h

theorem State.memWf_flushWord {g : Nat × List (Nat × Byte × Bool)} (h : s.MemWf) : (flushWord w s g).MemWf := State.memWf_writeWord h

theorem State.memWf_flushBlks (l : List (Nat × List (Nat × Byte × Bool))) :
    ∀ a : State, a.MemWf → (l.foldl flushBlk a).MemWf := by
  induction l with
  | nil => intro a h; exact h
  | cons g l ih => intro a h; exact ih _ (State.memWf_flushBlk h)

theorem State.memWf_flushSeens {seen halves : List Nat} (l : List (Nat × List (Nat × Byte × Bool))) :
    ∀ a : State × List Nat, a.1.MemWf → (l.foldl (flushSeen e seen halves w) a).1.MemWf := by
  induction l with
  | nil => intro a h; exact h
  | cons g l ih => intro a h; exact ih _ (State.memWf_flushSeen h)

theorem State.memWf_flushWords (l : List (Nat × List (Nat × Byte × Bool))) :
    ∀ s : State, s.MemWf → (l.foldl (flushWord w) s).MemWf := by
  induction l with
  | nil => intro a h; exact h
  | cons g l ih => intro a h; exact ih _ (State.memWf_flushWord h)

theorem State.memWf_clearAll (l : List (Nat × Nat)) : ∀ s : State, s.MemWf → (l.foldl State.clearRange s).MemWf := by
  induction l with
  | nil => intro a h; exact h
  | cons g l ih => intro a h; exact ih _ (Mem.wf_clearBlks (State.memWf_seeMaps h))

theorem State.posts_mem (l : List (Nat × List Byte × Bool)) :
    ∀ s : State, (l.foldl (fun s p => s.post (.data p.1 p.2.1 p.2.2)) s).mem = s.mem := by
  induction l with
  | nil => intro a; rfl
  | cons g l ih => intro a; rw [List.foldl_cons, ih]; rfl

/-- The end of an execution keeps the canonical form. -/
theorem X.memWf_flush {x : X} (h : x.s.MemWf) : x.flush.s.MemWf := by
  unfold X.flush
  extract_lets x1 ws w r s1 s2 s3 s4
  have hr : r.1.MemWf := State.memWf_flushSeens _ _ (X.memWf_mergeReads h)
  have h1 : s1.MemWf := State.memWf_flushWords _ _ hr
  have h2 : s2.MemWf := State.memWf_clearAll _ _ h1
  show Mem.wf s4.mem = true
  unfold s4
  rw [State.posts_mem]
  unfold s3
  rw [X.crossed_mem]
  exact h2

/-- Bytes put at places keep the canonical form. -/
theorem State.memWf_putLocs {ws : List (Nat × Byte × Bool)} (h : s.MemWf) : (s.putLocs ws).MemWf := by
  unfold State.putLocs
  exact State.memWf_flushWords _ _ (State.memWf_flushBlks _ _ h)

/-- Free values taken for unspecified elements keep the canonical form. -/
theorem State.memWf_freeLocs {ls : List Nat} (h : s.MemWf) : (s.freeLocs ls).MemWf := by
  unfold State.freeLocs
  extract_lets r
  have hr : ∀ (l : List Nat) (a : State × List (Nat × Byte × Bool)), a.1.MemWf →
      (l.foldl (fun (a : State × List (Nat × Byte × Bool)) l => let v := a.1.freeByte; (v.2, (l, v.1, false) :: a.2)) a).1.MemWf := by
    intro l
    induction l with
    | nil => intro a h; exact h
    | cons g l ih => intro a h; exact ih _ h
  exact State.memWf_putLocs (hr _ (s, []) h)

end Sys2Proof.Machine
end

