-- ==== Sys2Proof/Laws/Complete.lean ====
section
/-!
SUPPORT. Laws of the end of a command: messages, signals, completion records.
-/
namespace Sys2Proof.Machine

theorem State.rf_of_reg {s t : State} {a hi lo : Nat} (h : t.reg a = s.reg a) : t.rf a hi lo = s.rf a hi lo := by
  simp only [State.rf, h]
theorem State.rb_of_reg {s t : State} {a i : Nat} (h : t.reg a = s.reg a) : t.rb a i = s.rb a i := by
  simp only [State.rb, h]

/-- Registers and host interface apart, a message changes nothing; and of the registers only the pending bits. -/
structure OnlyPba (s t : State) : Prop where
  regs : ∀ a, a ∉ (List.range 4).map (fun k => rMsixPba + 8 * k) → t.reg a = s.reg a
  posts : ∃ rest, t.host.posts = s.host.posts ++ rest
  frame : t = { s with regs := t.regs, host := t.host }

theorem OnlyPba.refl (s : State) : OnlyPba s s := ⟨fun _ _ => rfl, ⟨[], by simp⟩, rfl⟩

theorem OnlyPba.trans {a b c : State} (h1 : OnlyPba a b) (h2 : OnlyPba b c) : OnlyPba a c := by
  refine ⟨fun x hx => (h2.regs x hx).trans (h1.regs x hx), ?_, ?_⟩
  · obtain ⟨r1, e1⟩ := h1.posts
    obtain ⟨r2, e2⟩ := h2.posts
    exact ⟨r1 ++ r2, by rw [e2, e1, List.append_assoc]⟩
  · have e1 := h1.frame
    have e2 := h2.frame
    rw [e2]
    rw [e1]

theorem pba_mem {v : Nat} (h : v < 256) : rMsixPba + 8 * (v / 64) ∈ (List.range 4).map (fun k => rMsixPba + 8 * k) :=
  List.mem_map.2 ⟨v / 64, List.mem_range.2 (by omega), rfl⟩

theorem OnlyPba.setPba (s : State) {v : Nat} (h : v < 256) (b : Bool) : OnlyPba s (s.setPba v b) :=
  ⟨fun a ha => State.reg_setRb_ne (fun e => ha (e ▸ pba_mem h)), ⟨[], by simp [State.setPba]⟩, rfl⟩

theorem OnlyPba.writeStatus (s : State) : OnlyPba s s.writeStatus := by
  unfold State.writeStatus
  split
  · exact ⟨fun _ _ => rfl, ⟨_, rfl⟩, rfl⟩
  · exact OnlyPba.refl s

theorem OnlyPba.sendMsix (s : State) {v : Nat} (h : v < 256) : OnlyPba s (s.sendMsix v) := by
  unfold State.sendMsix
  extract_lets t s1 s2
  split
  · exact ⟨fun a ha => State.reg_setRb_ne (fun e => ha (e ▸ pba_mem h)), ⟨[], by simp⟩, rfl⟩
  · exact ⟨fun a ha => State.reg_setRb_ne (s := s) (fun e => ha (e ▸ pba_mem h)), ⟨_, rfl⟩, rfl⟩

theorem OnlyPba.pend (s : State) (c : Nat) : OnlyPba s (s.pend c) := by
  unfold State.pend
  extract_lets v imm s1 _ s2
  have hv : v < 256 := fld_lt _ _ _
  have h1 : OnlyPba s s1 := OnlyPba.setPba s hv true
  have h2 : OnlyPba s1 s2 := ⟨fun _ _ => rfl, ⟨[], (List.append_nil _).symm⟩, rfl⟩
  split
  · exact (h1.trans h2).trans ((OnlyPba.writeStatus _).trans (OnlyPba.sendMsix _ hv))
  · exact h1.trans h2

theorem State.signalFor_tally (s : State) (d t a x : Nat) : (s.signalFor d t a).tally x =
    s.tally x + (if s.tallyOk d x = true ∧ x = t then BitVec.ofNat 48 a else 0#48) := by
  unfold State.signalFor
  split
  · rename_i h
    by_cases e : x = t
    · subst e; rw [State.tally_signalTally, if_pos ⟨h, rfl⟩]
    · rw [if_neg (fun h => e h.2), BitVec.add_zero]; exact State.tally_signalTally_ne e
  · rename_i h
    rw [if_neg (by rintro ⟨h1, rfl⟩; exact h h1), BitVec.add_zero]; rfl

theorem State.signalFor_regs (s : State) (d t a : Nat) : SameRegs s (s.signalFor d t a) [cTallyWriteErr] := by
  intro x hx
  unfold State.signalFor
  split
  · rfl
  · exact State.reg_bump_ne (by simpa using hx)

theorem State.signalFor_refused (s : State) (d t a : Nat) : (s.signalFor d t a).reg cTallyWriteErr =
    if s.tallyOk d t = false then (s.bump cTallyWriteErr 1).reg cTallyWriteErr else s.reg cTallyWriteErr := by
  unfold State.signalFor
  cases h : s.tallyOk d t <;> simp <;> rfl

theorem State.signalFor_frame (s : State) (d t a : Nat) : s.signalFor d t a =
    { s with regs := (s.signalFor d t a).regs,
             pipe := { s.pipe with tally := (s.signalFor d t a).pipe.tally, met := (s.signalFor d t a).pipe.met } } := by
  unfold State.signalFor
  split <;> rfl

theorem cTallyWriteErr_notMem_pba : cTallyWriteErr ∉ (List.range 4).map (fun k => rMsixPba + 8 * k) := by decide

/-- From `s` to `t` a record is issued (R405 step 3, R406, R414). -/
structure Issues (s t : State) (c : Cmd) (r : Res) (rep : Bool) : Prop where
  record : s.records c r = true → ∃ rest, t.host.posts = s.host.posts ++
    .completion (s.slotAddr c.cpl) (c.recWords r rep (s.cpl c.cpl).pi (s.cplLen c.cpl) s.ftime s.frameNo) :: rest
  index : s.records c r = true → (t.cpl c.cpl).pi = ((s.cpl c.cpl).pi + 1) % 2 ^ 32
  silent : s.records c r = false → t = s
  otherRings : ∀ k, k ≠ c.cpl → t.cpl k = s.cpl k
  regs : ∀ a, a ∉ (List.range 4).map (fun k => rMsixPba + 8 * k) → t.reg a = s.reg a
  frame : t = { s with regs := t.regs, host := t.host, pipe := { s.pipe with cpls := t.pipe.cpls } }

theorem Issues.none {s : State} {c : Cmd} {r : Res} {rep : Bool} (h : s.records c r = false) : Issues s s c r rep :=
  ⟨fun e => absurd (h.symm.trans e) Bool.false_ne_true, fun e => absurd (h.symm.trans e) Bool.false_ne_true, fun _ => rfl, fun _ _ => rfl, fun _ _ => rfl, rfl⟩

theorem State.issue_spec (s : State) (c : Cmd) (r : Res) (rep : Bool) (h : s.flt.fatal = false) : Issues s (s.issue c r rep) c r rep := by
  unfold State.issue
  split
  · rename_i hf; rw [h] at hf; cases hf
  · split
    · rename_i hq; exact Issues.none (by simp [State.records, hq])
    · rename_i hq
      split
      · rename_i hb; exact Issues.none (by have hb' := Bool.not_eq_true' _ |>.mp hb; simp [State.records, hb'])
      · rename_i hb
        extract_lets len p s1 s2
        have hr : s.records c r = true := by
          simp only [Bool.not_eq_true, Bool.not_eq_false'] at hq hb
          simp [State.records, hb, hq]
        have key : ∀ t : State, OnlyPba s2 t → Issues s t c r rep := by
          intro t ht
          have hc : ∀ k, t.cpl k = s2.cpl k := by intro k; rw [ht.frame]; rfl
          refine ⟨fun _ => ?_, fun _ => ?_, fun e => absurd (e.symm.trans hr) Bool.false_ne_true, fun k hk => ?_, fun a ha => ht.regs a ha, ?_⟩
          · obtain ⟨rest, he⟩ := ht.posts
            refine ⟨rest, he.trans ?_⟩
            show (s.host.posts ++ [_]) ++ rest = _
            rw [List.append_assoc]; rfl
          · rw [hc]; show (Tab.get cplReset (Tab.set _ _ _ _) _).pi = _; rw [Tab.get_set_same]
          · rw [hc]; exact Tab.get_set_ne hk
          · rw [ht.frame]; rfl
        split
        · exact key _ (OnlyPba.pend _ _)
        · exact key _ (OnlyPba.refl _)

theorem State.records_of_regs {s t : State} {c : Cmd} {r : Res} (h : t.reg (rCplCfg c.cpl) = s.reg (rCplCfg c.cpl)) :
    t.records c r = s.records c r := by simp only [State.records, State.rb, h]

/-- The end of a command (R405). -/
theorem State.complete_ends (s : State) (c : Cmd) (r : Res) (rep : Bool) (h : s.flt.fatal = false) : Ends s (s.complete c r rep) c r rep := by
  unfold State.complete
  split
  · rename_i hf; rw [h] at hf; cases hf
  · extract_lets w sig s1
    have hsig : sig = c.signals r.status := rfl
    have e1 : s1 = { s with regs := s1.regs, pipe := { s.pipe with tally := s1.pipe.tally, met := s1.pipe.met } } := by
      unfold s1; split
      · exact State.signalFor_frame _ _ _ _
      · rfl
    have r1 : SameRegs s s1 [cTallyWriteErr] := by
      unfold s1; split
      · exact State.signalFor_regs _ _ _ _
      · intro a _; rfl
    have ne : ∀ x, x ≠ cTallyWriteErr → s1.reg x = s.reg x := fun x hx => r1 x (by simpa using hx)
    have hi := State.issue_spec s1 c r rep (by rw [e1]; exact h)
    have hcfg : s1.reg (rCplCfg c.cpl) = s.reg (rCplCfg c.cpl) := ne _ (by simp only [rCplCfg, rRingCfg, cTallyWriteErr, rModCount]; omega)
    have hbase : s1.reg (rCplBase c.cpl) = s.reg (rCplBase c.cpl) := ne _ (by simp only [rCplBase, rRingCfg, cTallyWriteErr, rModCount]; omega)
    have hfn : s1.reg rFrameNumber = s.reg rFrameNumber := ne _ (by decide)
    have hrec : s1.records c r = s.records c r := State.records_of_regs hcfg
    have hcpl : ∀ k, s1.cpl k = s.cpl k := by intro k; rw [e1]; rfl
    have hlen : s1.cplLen c.cpl = s.cplLen c.cpl := by simp only [State.cplLen, State.rf, hcfg]
    have hslot : s1.slotAddr c.cpl = s.slotAddr c.cpl := by simp only [State.slotAddr, hbase, hcpl, hlen]
    have hfr : s1.frameNo = s.frameNo := by simp only [State.frameNo, State.rf, hfn]
    have hft : s1.ftime = s.ftime := by rw [e1]; rfl
    have hhost : s1.host = s.host := by rw [e1]
    have htally : ∀ x, (s1.issue c r rep).tally x = s1.tally x := by intro x; rw [hi.frame]; rfl
    refine ⟨fun x => ?_, ?_, ?_, ?_, ?_, ?_, ?_, ?_⟩
    · rw [htally]
      unfold s1; split
      · rename_i hs; rw [State.signalFor_tally]
        have hs' : c.signals r.status = true := hs
        simp only [hs', true_and]
      · rename_i hs
        rw [if_neg (fun hh => hs hh.1), BitVec.add_zero]
    · rw [hi.regs _ cTallyWriteErr_notMem_pba]
      unfold s1; split
      · rename_i hs; rw [State.signalFor_refused]
        have hs' : c.signals r.status = true := hs
        simp only [hs', true_and]
      · rename_i hs; rw [if_neg (fun hh => hs hh.1)]
    · intro e; rw [← hrec] at e
      obtain ⟨rest, hp⟩ := hi.record e
      exact ⟨rest, by rw [hp, hhost, hslot, hcpl, hlen, hft, hfr]⟩
    · intro e; rw [hi.index (hrec.trans e), hcpl]
    · intro e; rw [hi.silent (hrec.trans e)]
      exact ⟨hhost, by rw [e1]⟩
    · intro k hk; rw [hi.otherRings k hk, hcpl]
    · intro a ha
      simp only [endRegs, List.mem_cons, not_or] at ha
      rw [hi.regs a ha.2, ne a ha.1]
    · rw [hi.frame]
      rw [e1]
/-- A head completes (R405, R399). -/
theorem State.completeHead_ends {s : State} {q : Nat} {h : QEnt} (r : Res) (hh : s.head q = some h) (hf : s.flt.fatal = false) :
    Ends (s.popHead q) (s.completeHead q r) h.cmd r false := by
  unfold State.completeHead
  rw [hh]
  exact State.complete_ends _ _ _ _ hf

theorem State.queue_popHead_same {s : State} {q : Nat} : (s.popHead q).queue q = { s.queue q with ents := (s.queue q).ents.drop 1 } :=
  State.queue_setQueue_same
theorem State.queue_popHead_ne {s : State} {q j : Nat} (h : j ≠ q) : (s.popHead q).queue j = s.queue j := State.queue_setQueue_ne h

theorem State.fatal_of_served {s : State} {q : Nat} {c : Cmd} (h : s.headServed q c = true) : s.flt.fatal = false := by
  simp only [State.headServed, State.headLive, Bool.and_eq_true, Bool.not_eq_true'] at h
  exact h.1.1.1.1

theorem State.headOf_serves {s : State} {q op : Nat} {h : QEnt} (hs : s.Serves q op h) : s.headOf q op = some h := by
  obtain ⟨h1, h2, h3⟩ := hs
  simp [State.headOf, h1, h2, h3]

end Sys2Proof.Machine
end

