-- ==== Sys2Proof/Laws/Sram.lean ====
section
/-!
SUPPORT. Where no word of other SRAM holds errors and no residue mismatches, nothing is decoded or repeated where it is used (R246, R366).
-/
namespace Sys2Proof.Machine

theorem State.seeSram_calm {s : State} (h : s.integ.errs = []) (w : ScrubStore) : s.seeSram w = s := by
  simp [State.seeSram, h]

theorem State.seeHead_calm {s : State} (h : s.integ.errs = []) (q : Nat) : s.seeHead q = s := by
  unfold State.seeHead
  split
  · exact State.seeSram_calm h _
  · rfl

theorem State.fdCheck_calm {s : State} (h : s.integ.resid = []) (u : FdUnit) : s.fdCheck u = s := by
  simp [State.fdCheck, h]

theorem State.seeMap_calm {s : State} (h : s.integ.errs = []) (b : Nat) : s.seeMap b = s := by
  simp [State.seeMap, h]

theorem State.wroteMap_calm {s : State} (h : s.integ.errs = []) (b : Nat) : s.wroteMap b = s := by
  simp [State.wroteMap, h]

theorem State.useFd_calm {s : State} (h : s.calm) (us : List FdUnit) : s.useFd us = s := by
  rw [State.useFd, State.seeSram_calm h.1]
  induction us with
  | nil => rfl
  | cons u us ih => rw [List.foldl_cons, State.fdCheck_calm h.2]; exact ih

theorem State.atHead_calm {s : State} (h : s.calm) (q : Nat) : s.atHead q = s := by
  rw [State.atHead, State.seeHead_calm h.1, State.useFd_calm h]

theorem State.seeStoke_calm {s : State} (h : s.calm) : s.seeStoke = s := State.useFd_calm h _

theorem State.seeAdmit_calm {s : State} (h : s.calm) (q : Nat) : s.seeAdmit q = s := by
  unfold State.seeAdmit
  extract_lets s1 s2
  have h1 : s1 = s := State.seeHead_calm h.1 q
  have h2 : s2 = s := by
    unfold s2; rw [h1]
    split
    · simp only [State.seeSram_calm h.1, ite_self]
      split <;> rfl
    · rfl
  rw [h2, State.useFd_calm h]

/-- A calm state is used as it stands by an execution row other than a VCLEAR's. -/
theorem State.used_calm {s : State} (h : s.integ.errs = []) (r : Run) (hv : r.cmd.opcode ≠ oVclear) : s.used r = s := by
  simp [State.used, hv, State.seeSram_calm h]

end Sys2Proof.Machine
end

