-- ==== Sys2Proof/Machine/Pins.lean ====
section
/-!
DEFINITION. Contacts and pins (19_electrical_mechanical): the allocation of the connectors (R484-R487), the sideband signals (R491) and
what the module drives on its outputs (R492, R493).
-/
namespace Sys2Proof.Machine

/-- Mezzanine connectors (Table EM-1). -/
inductive Conn where
  | j1 | j2 | j3
deriving DecidableEq, Repr

/-- Contacts of a connector (Table EM-1). -/
def Conn.contacts : Conn → Nat
  | .j1 => 400
  | .j2 => 480
  | .j3 => 480

/-- Sideband signals of J1 (Table EM-5). -/
inductive Side where
  | resetN | perstN | masterSel | smokeN | ember | stokeOut | i3cScl (port : Fin 2) | i3cSda (port : Fin 2) | prsntN
deriving DecidableEq, Repr

/-- What a contact carries (Table EM-2, R485, R486). The last two of a pair's contacts differ in their polarity. -/
inductive Use where
  | pcieTx (lane : Nat) (pos : Bool)
  | pcieRx (lane : Nat) (pos : Bool)
  | refclk (pos : Bool)
  | chaugTx (port lane : Nat) (pos : Bool)
  | chaugRx (port lane : Nat) (pos : Bool)
  | side (s : Side)
  | ground
  /-- To be left unconnected (R487). -/
  | reserved
deriving DecidableEq, Repr

/-- Sideband contacts of J1 (Table EM-5). -/
def sideContact : Nat → Use
  | 101 => .side .resetN
  | 102 => .side .perstN
  | 103 => .side .masterSel
  | 105 => .side .smokeN
  | 106 => .side .ember
  | 107 => .side .stokeOut
  | 109 => .side (.i3cScl 0)
  | 110 => .side (.i3cSda 0)
  | 112 => .side (.i3cScl 1)
  | 113 => .side (.i3cSda 1)
  | 115 => .side .prsntN
  | _ => .ground

/-- The six contacts of a lane: a transmit pair, ground, a receive pair, ground (R485, R486). -/
def laneContact (tx rx : Bool → Use) : Nat → Use
  | 0 => tx true
  | 1 => tx false
  | 3 => rx true
  | 4 => rx false
  | _ => .ground

/-- The use of contact `c` (numbered from 1) of a connector; `none` where there is no such contact. -/
def Conn.use (j : Conn) (c : Nat) : Option Use :=
  if c = 0 ∨ j.contacts < c then none
  else
    let lane (first : Nat) : Use := laneContact (.chaugTx (first + (c - 1) / 48) ((c - 1) % 48 / 6)) (.chaugRx (first + (c - 1) / 48) ((c - 1) % 48 / 6)) ((c - 1) % 6)
    some (match j with
      | .j1 =>
        if c ≤ 96 then laneContact (.pcieTx ((c - 1) / 6)) (.pcieRx ((c - 1) / 6)) ((c - 1) % 6)
        else if c = 97 ∨ c = 98 then .refclk (c == 97)
        else if c ≤ 100 then .ground
        else if c ≤ 115 then sideContact c
        else if c ≤ 140 then .reserved
        else if c ≤ 200 then .ground
        else .reserved
      | .j2 => if c ≤ 432 then lane 0 else .ground
      | .j3 => if c ≤ 432 then lane 9 else .ground)

/-- What the module drives on an output. -/
inductive Drive where
  | low | high
  /-- Not driven: the pull-up or pull-down of the line decides. -/
  | released
deriving DecidableEq, Repr

/-- What the module drives on a sideband signal (R428, R429, R492, R493): SMOKE_N is open-drain, and high-impedance without auxiliary
power; EMBER and STOKE_OUT are left to their pull-downs without it; PRSNT_N is tied to ground. The I3C lines carry Chimney's messages
and are not followed bit by bit. -/
def State.drives (s : State) : Side → Drive
  | .smokeN => if s.pwr.aux && !s.flt.smoke then .low else .released
  | .ember => if !s.pwr.aux then .released else if s.flt.ember then .high else .low
  | .stokeOut => if !s.pwr.aux then .released else if s.stokeOut then .high else .low
  | .prsntN => .low
  | _ => .released

end Sys2Proof.Machine
end

