-- ==== Sys2Proof/WellFormed.lean ====
section
/-!
DEFINITION. Well-formed commands: every operand lies in the range the manual gives what it names. A command that is not
well-formed names something the module has not; what `exec` does with one is no claim about the hardware.
-/
namespace Sys2Proof

/-- Queue numbers: 96 tile queues, then the 64 ring queues (R390). -/
def okQueue (q : Nat) : Bool := decide (q < 160)
/-- Command rings and completion rings (Table HR-3). -/
def okRing (r : Nat) : Bool := decide (r < 64)
/-- Protection domains (R215). -/
def okDomain (d : Nat) : Bool := decide (d < 256)
/-- Routing contexts (R158). -/
def okContext (c : Nat) : Bool := decide (c < 64)
/-- Collective groups (R334). -/
def okGroup (k : Nat) : Bool := decide (k < 64)
/-- Receive streams (R359). -/
def okStream (n : Nat) : Bool := decide (n < 1024)
/-- Tally blocks (R412). -/
def okBlock (b : Nat) : Bool := decide (b < 256)
/-- Chaug ports (R322). -/
def okPort (p : Nat) : Bool := decide (p < 18)
/-- Virtual channels (R326). -/
def okVc (v : Nat) : Bool := decide (v < 8)
/-- Stacks (R15). -/
def okStack (k : Nat) : Bool := decide (k < 24)
/-- Vectors of the MSI-X table (R414). -/
def okVector (v : Nat) : Bool := decide (v < 256)
/-- A logical tile of a compute die (R377). -/
def okTile (die tile : Nat) : Bool := decide (die < 2) && decide (tile < 48)
/-- A physical tile of a compute die (R14). -/
def okPhys (die phys : Nat) : Bool := decide (die < 2) && decide (phys < 52)
/-- An aligned register access inside BAR0 (R386, R470). -/
def okAccess (off size : Nat) : Bool := (size == 4 || size == 8) && decide (off % size = 0) && decide (off + size ≤ 2 ^ 26)
/-- A whole flit (R322). -/
def okFlit (flit : List Byte) : Bool := flit.length == 256
/-- Eight credit counts, one for each virtual channel (R326). -/
def okCredits (l : List Nat) : Bool := l.length == 8
/-- The doorbell block (R400). -/
def okDoorbells (l : List W64) : Bool := l.length == 64
/-- Entries of a command ring, eight words each (R395). -/
def okEntries (l : List (List W64 × Bool)) : Bool := l.all (fun e => e.1.length == 8)
/-- A key of a job (R449). -/
def okKey (k : List Byte) : Bool := k.length == 48
/-- An I3C port and its 7-bit address (R494). -/
def okI3c (port addr : Nat) : Bool := decide (port < 2) && decide (addr < 128)
/-- A firmware component (Table MG-8). -/
def okComponent (c : Nat) : Bool := decide (1 ≤ c) && decide (c ≤ 5)
/-- A condition code of Table MG-4. -/
def okCondition (c : Nat) : Bool := decide (1 ≤ c) && decide (c ≤ 5)
/-- Junction sites and input sensors (R435). -/
def okSites (l : List (Nat × Int)) : Bool := l.all (fun p => decide (p.1 < 256))
/-- Each pass of patrol scrub names a store that the module has (Table DI-6). -/
def okStore : ScrubStore → Bool
  | .stack k => okStack k
  | .tile t => decide (t < 96)
  | .validMap w => decide (w < 24 * 2 ^ 22)
  | .queue _ => true
  | .cocoon _ => true
  | .context c => okContext c
  | .update d => okDomain d
  | .module => true
  | .leaves _ => true
  | .port p => decide (p < 18)
  | .chimney => true
/-- An upset strikes a symbol or a word that is stored (R236, R244). -/
def okUpset : Upset → Bool
  | .stackSym dpa die _ => decide (dpa < 0x018000000000) && decide (die < 18)
  | .stackBlk dpa die _ => decide (dpa < 0x018000000000) && decide (die < 18)
  | .tileWord t off _ => decide (t < 96) && decide (off < 6 * 2 ^ 20)
  | .sramWord w _ _ => (match w with | .stack _ => false | .tile _ => false | w => okStore w)
  | .datapath _ => true
  | .crossing dpa _ => decide (dpa < 0x018000000000)
/-- What surrounds an execution: upsets of stored data, and host bytes at 64-bit PCIe addresses. -/
def okEnv (e : Env) : Bool := e.upsets.all okUpset && e.host.all (fun p => decide (p.1 < 2 ^ 64))
/-- Tiles of a test report: die, physical tile, failing step. -/
def okTests (l : List (Nat × Nat × Nat)) : Bool := l.all (fun t => okPhys t.1 t.2.1)
/-- An error of flash lies in one of the two copies of an entry (R443). -/
def okBad (b : BadEntry) : Bool := decide (b.copy < 2) && decide (b.pat < 2 ^ 56)
/-- What the held phase of start-up reports (Table SU-3). -/
def okPower (o : PowerUp) : Bool := okTests o.tileFails && o.stackFails.all okStack && o.badEntries.all okBad

/-- A command is well-formed. -/
def Instr.wf : Instr → Bool
  | .nop q => okQueue q
  | .wait q => okQueue q
  | .signal q => okQueue q
  | .phase q => okQueue q
  | .frameMark q => okQueue q
  | .transfer _ e => okEnv e
  | .convert _ e => okEnv e
  | .vclear _ e => okEnv e
  | .hmul _ e => okEnv e
  | .smul _ e => okEnv e
  | .gather _ e => okEnv e
  | .scatter _ e => okEnv e
  | .merge _ e => okEnv e
  | .compact _ e => okEnv e
  | .func _ e => okEnv e
  | .route _ e => okEnv e
  | .combine _ e => okEnv e
  | .stepOpen q => okQueue q
  | .stepSeal q => okQueue q
  | .updateSchedule q => okQueue q
  | .updateRun _ e => okEnv e
  | .reduceScatter _ e => okEnv e
  | .allGather _ e => okEnv e
  | .allReduce _ e => okEnv e
  | .broadcast _ e => okEnv e
  | .ringDispatch r => okRing r
  | .descriptorLoad q e => okQueue q && okEnv e
  | .instructionAdmit q => okQueue q
  | .commandComplete _ => true
  | .replay _ e => okEnv e
  | .spareSwapDone d t => okTile d t
  | .stoke l => okTests l
  | .guardInterval => true
  | .reserveRelease => true
  | .overrunLimit _ => true
  | .powerMonitorSample _ => true
  | .sensorSample l => okSites l
  | .decodeDeadline q => okQueue q
  | .arrivalWatchdog _ => true
  | .waitTimeout q => okQueue q
  | .reductionDeadline _ => true
  | .collectiveBurst _ p e => okPort p && okEnv e
  | .updateBlockTake d e => okDomain d && okEnv e
  | .updateBatchIssue => true
  | .microCommand k _ _ e => okStack k && okEnv e
  | .rollbackComplete d e => okDomain d && okEnv e
  | .smokePulseEnd => true
  | .emberToggle => true
  | .emberKickTimeout => true
  | .irqGapExpiry v => okVector v
  | .msixUnmask v => okVector v
  | .patrolScrub w _ e => okStore w && okEnv e
  | .scrubLate w => okStore w
  | .sramWriteBack t b => (decide (t < 96) && decide (b < 32)) || (t == 96 && decide (b < 9))
  | .testDue d j => okPhys d j
  | .testGraceExpiry d t => okTile d t
  | .tileStoreZeroed d t => okTile d t
  | .parameterMapLoaded d e => okDomain d && okEnv e
  | .answerBlockArrival c => okContext c
  | .flitReceive p f _ _ => okPort p && okFlit f
  | .leaf p v => okPort p && okVc v
  | .gatherPacket p v => okPort p && okVc v
  | .streamPacket p v => okPort p && okVc v
  | .window p v => okPort p && okVc v
  | .grant p v => okPort p && okVc v
  | .poison p v => okPort p && okVc v
  | .ready p v => okPort p && okVc v
  | .stokeMarker p => okPort p
  | .echoRequest p => okPort p
  | .echoReply p _ => okPort p
  | .delayMeasurement => true
  | .stokeMissing => true
  | .rangeDetach => true
  | .joiningStoke => true
  | .portDown p => okPort p
  | .portUp p _ l => okPort p && okCredits l
  | .portTrainRetry p => okPort p
  | .doorbellReadDone res l => (res != .good && res != .badEcrc) || okDoorbells l
  | .ringFetchDone r l => okRing r && okEntries l
  | .kickWrite r off n _ => decide (r < 256) && decide (off + n ≤ 4096)
  | .tallyPageWrite off n _ => decide (off + n ≤ 2 ^ 20)
  | .stackWindowWrite off l => decide (off + l.length ≤ 2 ^ 32)
  | .stackWindowRead off n => decide (off + n ≤ 2 ^ 32)
  | .setupLock _ _ => true
  | .stokeSwitchFrame _ _ => true
  | .powerCap _ _ => true
  | .gateMode _ _ => true
  | .stepAbandon _ _ => true
  | .faultClear _ _ => true
  | .epochAdvance _ c _ => okContext c
  | .dieFailForce k _ => okStack k
  | .emberKick => true
  | .tileDomain _ d t _ => okTile d t
  | .domainEnable _ d _ => okDomain d
  | .domainDisable _ d _ => okDomain d
  | .ptRoot _ d _ => okDomain d
  | .routeCtlEnable _ c _ => okContext c
  | .cgroupEnable _ k _ e => okGroup k && okEnv e
  | .cgroupDisable _ k _ => okGroup k
  | .streamEnable _ n _ => okStream n
  | .ringEnable _ r _ => okRing r
  | .ringDisable _ r _ => okRing r
  | .cplRingEnable _ c _ => okRing c
  | .tallyOwner _ b _ => okBlock b
  | .portCfg _ p _ => okPort p
  | .rangeJoin _ _ => true
  | .masterEnable _ _ => true
  | .vcCfg _ v _ => okVc v
  | .registerWrite _ off n _ => okAccess off n
  | .inputPowerOn => true
  | .packagePowerUp o => okPower o
  | .packageResetRelease _ => true
  | .frameReferenceLock => true
  | .pcieLinkUp => true
  | .resetNAssert => true
  | .perstNAssert => true
  | .level2Reset => true
  | .inputUndervoltage => true
  | .railFault z => decide (z < 38)
  | .powerRestored => true
  | .auxPowerLoss => true
  | .sensorSnapshot l => okSites l
  | .chimneyFatalCondition c _ => okCondition c
  | .firmwareHealthTimeout => true
  | .mctpControl _ _ => true
  | .pldmBase _ _ => true
  | .requestUpdate _ => true
  | .componentTransfer _ c _ => okComponent c
  | .verifyComplete _ => true
  | .activateFirmware _ => true
  | .cancelUpdate _ => true
  | .getVersion _ => true
  | .getCapabilities _ => true
  | .negotiateAlgorithms _ _ => true
  | .getDigests _ => true
  | .getCertificate _ k _ _ => decide (k < 8)
  | .challenge _ _ => true
  | .getMeasurements _ _ i _ _ => decide (i < 256)
  | .keyExchange _ _ _ => true
  | .finish _ _ _ => true
  | .heartbeat _ _ _ => true
  | .keyUpdate _ _ _ => true
  | .endSession _ _ _ => true
  | .getSensors _ _ _ => true
  | .getZonePower _ _ _ _ => true
  | .readLog _ _ _ => true
  | .getHealth _ => true
  | .readCap _ _ => true
  | .readReg _ _ => true
  | .forceStop _ _ => true
  | .setJobKey _ _ d k => okDomain d && okKey k
  | .getJobReport _ _ d _ => okDomain d
  | .clearSnuffer _ _ => true
  | .configurationRequest _ off _ => decide (off < 4096) && decide (off % 4 = 0)
  | .bar0Ready => true
  | .mailboxRequest _ _ => true
  | .dynamicAddressAssignment p a => okI3c p a
  | .markHealthy => true
  | .getFirmwareParameters _ => true

end Sys2Proof
end

