-- ==== Sys2Proof/Tests/Slice0.lean ====
section
/-!
SUPPORT. The model's own tests: an ill-formed command for each check of WellFormed; results that the spec's tables and rules give
for one step or one operation; and, for every statement with hypotheses, a state and operands that meet them together.
-/
namespace Sys2Proof.Tests

open Sys2Proof Sys2Proof.Machine

set_option Elab.async false

/-! ### Ill-formed commands -/

theorem test_wf_queue : (Instr.nop 159).wf = true ∧ (Instr.nop 160).wf = false := by decide
theorem test_wf_ring : (Instr.ringDispatch 64).wf = false := by decide
theorem test_wf_domain : (Instr.rollbackComplete 256 {}).wf = false := by decide
theorem test_wf_context : (Instr.answerBlockArrival 64).wf = false := by decide
theorem test_wf_group : (Instr.cgroupDisable .host 64 0#64).wf = false := by decide
theorem test_wf_stream : (Instr.streamEnable .host 1024 0#64).wf = false := by decide
theorem test_wf_block : (Instr.tallyOwner .host 256 0#64).wf = false := by decide
theorem test_wf_port : (Instr.portDown 18).wf = false := by decide
theorem test_wf_vc : (Instr.leaf 0 8).wf = false := by decide
theorem test_wf_stack : (Instr.dieFailForce 24 0#64).wf = false := by decide
theorem test_wf_vector : (Instr.msixUnmask 256).wf = false := by decide
theorem test_wf_tile : (Instr.spareSwapDone 2 0).wf = false ∧ (Instr.spareSwapDone 0 48).wf = false := by decide
theorem test_wf_phys : (Instr.testDue 0 52).wf = false := by decide
theorem test_wf_access : (Instr.registerWrite .host 4 8 0#64).wf = false ∧ (Instr.registerWrite .host 0x4000000 8 0#64).wf = false := by decide
theorem test_wf_flit : (Instr.flitReceive 0 [0#8] 0 0).wf = false := by decide
theorem test_wf_credits : (Instr.portUp 0 false [1]).wf = false := by decide
theorem test_wf_doorbells : (Instr.doorbellReadDone .good [0#64]).wf = false := by decide
theorem test_wf_entries : (Instr.ringFetchDone 0 [([0#64], false)]).wf = false := by decide
/-- Endpoint 2 on PCIe. -/
def ag : Peer := ⟨.pcie, 2⟩
theorem test_wf_key : (Instr.setJobKey ag none 0 [1#8]).wf = false := by decide
theorem test_wf_i3c : (Instr.dynamicAddressAssignment 2 0).wf = false ∧ (Instr.dynamicAddressAssignment 0 128).wf = false := by decide
theorem test_wf_component : (Instr.componentTransfer ag 6 none).wf = false := by decide
theorem test_wf_condition : (Instr.chimneyFatalCondition 0 0).wf = false := by decide
theorem test_wf_sites : (Instr.sensorSnapshot [(256, 0)]).wf = false := by decide
theorem test_wf_store : (Instr.scrubLate (.tile 96)).wf = false := by decide
theorem test_wf_upset : (Instr.transfer 0 { upsets := [.stackSym 0 18 1#8] }).wf = false := by decide
theorem test_wf_tests : (Instr.stoke [(0, 52, 1)]).wf = false := by decide
theorem test_wf_power : (Instr.packagePowerUp { stackFails := [24] }).wf = false := by decide
theorem test_wf_bank : (Instr.sramWriteBack 0 32).wf = false := by decide
theorem test_wf_window : (Instr.stackWindowRead (2 ^ 32) 1).wf = false ∧ (Instr.kickWrite 256 0 8 0#64).wf = false ∧
    (Instr.tallyPageWrite (2 ^ 20) 8 0#64).wf = false := by decide
theorem test_wf_zone : (Instr.railFault 38).wf = false := by decide
theorem test_wf_slot : (Instr.getCertificate ag 8 0 0).wf = false ∧ (Instr.getMeasurements ag none 256 false []).wf = false := by decide
theorem test_wf_dword : (Instr.configurationRequest false 2 0#32).wf = false := by decide

/-! ### Small states -/

/-- Registers set to values. -/
def regsOf (l : List (Nat × Nat)) (s : State) : State := l.foldl (fun s r => s.setReg r.1 (BitVec.ofNat 64 r.2)) s

/-- A module in service: set-up locked, MASTER, domain 1 enabled with tiles 0 and 1 of die 0, its tokens in the general pool. -/
def up : State := regsOf [(rSetupLock, 1), (rRangeStatus, 3), (rDomCtl 1, 1), (rTileDomain 0, 1), (rTileDomain 1, 1), (rDescTblLen 1, 8),
    (rEmberStatus, 0)]
  { State.reset with
    pwr := { aux := true, pkg := .released, pcieUp := true, bar0 := true, stoked := true, msixOn := true }
    chim := { running := true }
    frame := { locked := true, damper := { pool := 1000, general := 1000 } } }

/-- A command of domain 1 with the words of its operands. -/
def cmd (op : Nat) (ops : List Nat) : Cmd :=
  { id := 7, ring := 0, idx := 0, dom := 1, cpl := 0, words := BitVec.ofNat 64 op :: ([0, 0, 0] ++ ops).map (BitVec.ofNat 64) }

/-- `up` with an entry at the head of queue 0. -/
def head0 (h : QEnt) : State := up.setQueue 0 { ents := [h] }

/-- A tensor of n elements of a type in the executing tile's store. -/
def ten (off ety n : Nat) : Desc :=
  { noDesc with base := 2 ^ 30 + off, space := 1, dom := 1, ety, rank := 1, n0 := n, s0 := 1 }
/-- A matrix of n columns and m rows. -/
def mat (off ety n m : Nat) : Desc := { ten off ety n with rank := 2, n1 := m, s1 := n }

/-- `up` with a run of an opcode on tile 0. -/
def runOf (op : Nat) (ops : List Nat) (ds : List (Option Desc)) : Run :=
  { cmd := cmd op ops, q := 0, unit := .skipper 0, descs := ds }
def with1 (r : Run) : State := up.addRun r

/-- The execution that a run makes on its tile. -/
def xOf (s : State) (r : Run) (e : Env) : X := (((s.fed r).entering r e).engine).ran

/-- The conditions under which it executes. -/
def ready (s : State) (id op : Nat) (r : Run) (e : Env) : Bool :=
  s.findRun id == some r && r.cmd.id == id && r.cmd.opcode == op && decide (r.st = .admitted) && (s.fed r).findRun id == some r &&
  !(r.streams.any (fun n => r.wants n != 0)) && !s.flt.fatal && !((s.fed r).upsets e).rb (rTwinCtl ((s.fed r).entering r e).run.cmd.dom) 0 &&
  ((s.fed r).entering r e).run.cmd.id == id && (xOf s r e).run.cmd == ((s.fed r).entering r e).run.cmd &&
  (xOf s r e).run.unit == ((s.fed r).entering r e).run.unit && decide (Env.strikes e 7 < 2) && (((s.fed r).entering r e).run.cmd.opcode == op) &&
  (op != oVclear || r.clearStacks.all (fun k => (s.fifo k).isEmpty || s.serves1 (.job id) k))

theorem executes_of (s : State) (id op : Nat) (e : Env) (r : Run) (h : ready s id op r e = true) :
    Executes s id op e ((s.fed r).entering r e).run (xOf s r e) := by
  simp only [ready, Bool.and_eq_true, beq_iff_eq, decide_eq_true_eq, Bool.not_eq_true', Bool.or_eq_true, bne_iff_ne] at h
  obtain ⟨⟨⟨⟨⟨⟨⟨⟨⟨⟨⟨⟨⟨h1, h2⟩, h3⟩, h4⟩, h5⟩, h6⟩, h7⟩, h8⟩, h9⟩, h10⟩, h11⟩, h12⟩, h13⟩, h14⟩ := h
  exact ⟨⟨r, r, h1, h2, h3, h4, h5, h6, rfl, h9, h13, rfl, h10, h11⟩, h7, Or.inr (fun r0 hr => by rw [h1] at hr; cases hr; exact h8), h12,
    fun hv r0 hr => by rw [h1] at hr; cases hr; exact h14.resolve_left (fun hn => hn hv)⟩

/-! ### Witnesses: the machine, commands of bound 0 -/

theorem test_w_step : ({ State.reset with pending := [.nop 0, .wait 1] } : State).pending = .nop 0 :: [.wait 1] := by rfl
theorem test_w_idle : (up.pending = [] ∧ up.pwr.aux = true ∧ up.chim.mbx = none) ∧ (State.reset.pending = [] ∧ State.reset.pwr.aux = false) := by
  decide +kernel
theorem test_w_canonical : up.RegsWf ∧ up.MemsWf ∧ ∃ t, step { up with pending := [.emberKick] } = .next t :=
  ⟨by decide +kernel, by unfold State.MemsWf; decide +kernel, _, rfl⟩

/-- A WAIT for a counter, with TIMEOUT, at a number of stokes. -/
def waitAt (target timeout stokes : Nat) : QEnt := { cmd := cmd 1 [target, timeout * 2 ^ 24 + 5], stokes }

theorem test_w_nop : (head0 { cmd := cmd 0 [] }).Serves 0 0x00 { cmd := cmd 0 [] } := ⟨by decide +kernel, by decide +kernel, by decide +kernel⟩
theorem test_w_wait_met :
    let s := (head0 (waitAt 9 0 0)).setTally 5 (BitVec.ofNat 48 (9 + (2 ^ 47 - 1)))
    (s.Serves 0 0x01 (waitAt 9 0 0) ∧ (s.tally 5 - 9#48).toNat < 2 ^ 47) ∧
    ((head0 (waitAt 9 0 0)).tally 5 + BitVec.ofNat 48 9 - 9#48).toNat < 2 ^ 47 :=
  ⟨⟨⟨by decide +kernel, by decide +kernel, by decide +kernel⟩, by decide +kernel⟩, by decide +kernel⟩
theorem test_w_wait_fails :
    let s := (head0 (waitAt 9 1 1)).setTally 5 (BitVec.ofNat 48 (9 + 2 ^ 47))
    s.Serves 0 0x01 (waitAt 9 1 1) ∧ 2 ^ 47 ≤ (s.tally 5 - 9#48).toNat ∧ fld ((waitAt 9 1 1).cmd.op 1) 31 24 ≤ (waitAt 9 1 1).stokes ∧
      0 < fld ((waitAt 9 1 1).cmd.op 1) 31 24 ∧ (waitAt 9 1 1).cmd.id ∉ s.pipe.met := ⟨⟨by decide +kernel, by decide +kernel, by decide +kernel⟩, by decide +kernel⟩

def sig : QEnt := { cmd := cmd 2 [3 * 2 ^ 32 + 512] }
theorem test_w_signal :
    let s := regsOf [(rTallyOwner 1, 0x101)] (head0 sig)
    (s.Serves 0 0x02 sig ∧ (∀ r ∈ s.runs, r.q ≠ 0) ∧ s.tallyOk 1 512 = true) ∧
    ((s.addRun (runOf 5 [] [])).Serves 0 0x02 sig ∧ ∃ r ∈ (s.addRun (runOf 5 [] [])).runs, r.q = 0) :=
  ⟨⟨⟨by decide +kernel, by decide +kernel, by decide +kernel⟩, by decide +kernel⟩, ⟨by decide +kernel, by decide +kernel, by decide +kernel⟩,
    by decide +kernel⟩

def mark (w stokes : Nat) : QEnt := { cmd := cmd 4 [w], stokes }
theorem test_w_phase_and_mark :
    (head0 { cmd := cmd 3 [2] }).Serves 0 0x03 { cmd := cmd 3 [2] } ∧
    ((head0 (mark (2 ^ 16 + 2 ^ 17) 1)).Serves 0 0x04 (mark (2 ^ 16 + 2 ^ 17) 1) ∧ fbit ((mark (2 ^ 16 + 2 ^ 17) 1).cmd.op 0) 16 = true ∧
      (mark (2 ^ 16 + 2 ^ 17) 1).stokes ≤ fld ((mark (2 ^ 16 + 2 ^ 17) 1).cmd.op 0) 23 17) ∧
    ((head0 (mark (2 ^ 16 + 2 ^ 24) 1)).Serves 0 0x04 (mark (2 ^ 16 + 2 ^ 24) 1) ∧
      fld ((mark (2 ^ 16 + 2 ^ 24) 1).cmd.op 0) 23 17 < (mark (2 ^ 16 + 2 ^ 24) 1).stokes) ∧
    ((head0 (mark 5 0)).Serves 0 0x04 (mark 5 0) ∧ fbit ((mark 5 0).cmd.op 0) 16 = false) :=
  ⟨⟨by decide +kernel, by decide +kernel, by decide +kernel⟩, ⟨⟨by decide +kernel, by decide +kernel, by decide +kernel⟩, by decide +kernel⟩,
    ⟨⟨by decide +kernel, by decide +kernel, by decide +kernel⟩, by decide +kernel⟩,
    ⟨by decide +kernel, by decide +kernel, by decide +kernel⟩, by decide +kernel⟩

/-- With ALIGN 1 a mark falls due also while its tile is closed. -/
theorem test_w_mark_closed : let h := mark (2 ^ 16 + 2 ^ 24) 1
    let s := { head0 h with tiles := { up.tiles with zeroing := [0] } }
    s.head 0 = some h ∧ h.cmd.opcode = 0x04 ∧ s.headServed 0 h.cmd = false ∧ s.headLive 0 h.cmd = true ∧ fld (h.cmd.op 0) 23 17 < h.stokes := by
  decide +kernel

theorem test_w_record : (cmd 5 [0, 0, 0, 0]).ring < 64 ∧ ({ status := 4, cause := 30 } : Res).cause < 64 ∧
    (cmd 5 [0, 0, 0, 0]).words.length = 8 := by decide +kernel

/-! ### Witnesses: executions -/

/-- The first 64 KiB of stack 0, mapped at its own address. -/
def pg : Page := { va := 0, size := 65536, present := true, write := true, host := false, addr := 0 }

/-- A run of each engine row, kept. -/
def keptRuns : List Run :=
  [runOf oTransfer [] [some (ten 0 4 2), some (ten 64 4 2)], runOf oConvert [] [some (ten 0 4 2), some (ten 64 0 2)],
   { runOf oVclear [] [some { noDesc with ety := 13, base := 256, n0 := 512, s0 := 1 }] with pages := [pg] },
   runOf oHmul [] [some (mat 0 0 2 3), some (mat 64 0 3 2), some (mat 128 4 2 2)],
   runOf oSmul [0, 0, 1000] [some (mat 0 0 2 3), some (mat 64 0 3 2), some (mat 128 4 2 2)],
   runOf oGather [] [some (mat 0 4 2 4), some (mat 64 4 2 3), some (ten 128 11 3)],
   runOf oScatter [] [some (mat 0 4 2 3), some (mat 64 4 2 4), some (ten 128 11 3)],
   runOf oMerge [] [some (ten 0 11 2), none, some (ten 64 11 2), none, some (ten 128 11 4), none],
   runOf oCompact [] [some (mat 0 4 2 2), some (ten 64 13 256)],
   runOf oFunc [] [some (ten 0 4 1), none, some (ten 64 4 1), none],
   runOf oRoute [0, 1 * 2 ^ 8 + 1 * 2 ^ 16] [some (mat 0 4 2 3), some (mat 64 11 1 2), some (mat 128 12 1 3), some (ten 192 13 64)]]

theorem test_w_kept : ∀ p ∈ engineRows.zip keptRuns,
    ready (with1 p.2) 7 p.1.2 p.2 {} = true ∧ (xOf (with1 p.2) p.2 {}).run.cmd = p.2.cmd ∧ (xOf (with1 p.2) p.2 {}).Kept := by
  unfold X.Kept; decide +kernel

/-- A GATHER with index mode, and with offsets that descend. -/
def gat : Run := runOf oGather [] [some (mat 0 4 2 4), some (mat 64 4 2 3), some (ten 128 11 3)]
def rag : Run := runOf oGather [0, 1] [some (mat 0 4 2 4), some (mat 64 4 2 4), some (ten 128 11 3)]
/-- A state in which tile 0 holds 32-bit words at an offset. -/
def words (off : Nat) (l : List Nat) (s : State) : State :=
  (l.zipIdx).foldl (fun s p => s.writeWord ((off + 4 * p.2) / 8) ((leBytes 4 p.1).zipIdx.map (fun b => ((off + 4 * p.2) % 8 + b.2, b.1, false))) {}) s
def unsorted : Run := runOf oMerge [] [some (ten 0 11 2), none, some (ten 64 11 2), none, some (ten 128 11 4), none]
/-- A TRANSFER whose source page is not present. -/
def lost : Run := runOf oTransfer [] [some { noDesc with ety := 4, n0 := 2, s0 := 1 }, some (ten 64 4 2)]
/-- A TRANSFER that writes part of block 0. -/
def part : Run := { runOf oTransfer [] [some (ten 0 4 2), some { noDesc with ety := 4, n0 := 2, s0 := 1 }] with pages := [pg] }
def bad3 : Env := { faults := [{ stage := 3, row := 0, col := 0, pat := 1#32 }] }

theorem test_w_stopped :
    (let s := words 128 [0, 3, 1] (with1 rag)
     ready s 7 oGather rag {} = true ∧ (xOf s rag {}).run.cmd = rag.cmd ∧ (xOf s rag {}).stop.map (·.src) = some 0) ∧
    (let s := words 0 [4, 3] (with1 unsorted)
     ready s 7 oMerge unsorted {} = true ∧ (xOf s unsorted {}).run.cmd = unsorted.cmd ∧ (xOf s unsorted {}).stop = none ∧ (xOf s unsorted {}).cause = 8) ∧
    (let s := with1 lost
     ready s 7 oTransfer lost {} = true ∧ (xOf s lost {}).run.cmd = lost.cmd ∧ (xOf s lost {}).stop.map (·.src) = some 17) ∧
    (let s := (with1 part).setMem ((with1 part).mem.poisonBlk 0)
     ready s 7 oTransfer part {} = true ∧ (xOf s part {}).stop = none ∧ (xOf s part {}).cause = 0 ∧ (xOf s part {}).det = false ∧
       (xOf s part {}).mergeReads.partialPoison = [0]) := by decide +kernel

theorem test_w_detection :
    ready (with1 gat) 7 oGather gat bad3 = true ∧ (xOf (with1 gat) gat bad3).stop = none ∧ (xOf (with1 gat) gat bad3).cause = 0 ∧
      (xOf (with1 gat) gat bad3).det = true := by decide +kernel

/-- Twin mode of domain 1. -/
def twinned : State := regsOf [(rTwinCtl 1, 1)] (with1 gat)
def twin (e : Env) : X × X :=
  ((twinned.entering gat e).engine, ({ twinned.entering gat e with e := { e with faults := e.twinFaults } } : X).engine)
theorem test_w_twin :
    ((twinned.upsets {}).rb (rTwinCtl gat.cmd.dom) 0 = true ∧ gat.unit.tile = some 0) ∧
    ((twin {}).1.stop = none ∧ (twin {}).1.cause = 0 ∧ (twin {}).1.det = false ∧ (twin {}).2.det = false ∧ (twin {}).1.digest = (twin {}).2.digest) ∧
    (let e : Env := { twinFaults := bad3.faults }; (twin e).1.stop = none ∧ (twin e).1.cause = 0 ∧ (twin e).2.det = true) := by decide +kernel

theorem test_w_vclear : ({ valid := Tab.set wordReset [] 0 0x7#64 } : Mem).vpoison = [] ∧
    ({ up with mem := ({ valid := Tab.set wordReset [] 0 0x7#64 } : Mem).clearBlks 1 1 } : State).mem =
      ({ valid := Tab.set wordReset [] 0 0x7#64 } : Mem).clearBlks 1 1 := by decide +kernel

theorem test_w_nans : W32.ex 0x7FC00003#32 = .nan 3 ∧ W32.ex 0x7FC00001#32 = .nan 1 ∧ (W32.ex 0x3F800000#32).isNan = false := by decide +kernel
theorem test_w_tree : (List.replicate 4 ((0#32, {}) : W32 × Flags)).length = 2 ^ (1 + 1) := by decide
theorem test_w_route : (∀ o ∈ [some [1, 0, 2], none], ∀ l, o = some l → ∀ e ∈ l, e < 3) ∧ (∀ o ∈ [some [1, 0, 2], none], ∀ l, o = some l → 2 ≤ l.length) := by
  refine ⟨fun o ho l hl => ?_, fun o ho l hl => ?_⟩ <;> subst hl <;> simp at ho <;> subst ho <;> decide
theorem test_w_merge : ascending [1, 2, 2, 5] = true ∧ ascending [2, 2, 3] = true := by decide
theorem test_w_injective : (mat 0 4 3 2).layout = 0 ∧ (mat 0 4 3 2).injective = true ∧ (2 : Nat) < (mat 0 4 3 2).sz 0 ∧ 1 < (mat 0 4 3 2).sz 1 ∧
    0 < (mat 0 4 3 2).sz 2 ∧ 0 < (mat 0 4 3 2).sz 3 := by decide +kernel
theorem test_w_word : bchDecode (2 ^ 79) = .fixed (2 ^ 79) ∧ bchDecode 3 = .fixed 3 := by decide +kernel

/-! ### Witnesses: the step -/

/-- Domain 1 with step 1 open in a state of Table TS-4. -/
def step1 (st : StepSt) (state : Nat) (s : State) : State :=
  (regsOf [(rStepState 1, state), (rStepNumber 1, st.number)] s).modDom 1 (fun x => { x with step := some st })
def openSt : StepSt := { number := 1, direct := false }

def opens (n : Nat) : QEnt := { cmd := cmd oStepOpen [n + 65535 * 2 ^ 48], loaded := true }
theorem test_w_step_open :
    ((head0 (opens 2)).head 0 = some (opens 2) ∧ (opens 2).cmd.opcode = oStepOpen ∧ (head0 (opens 2)).flt.fatal = false ∧
      (head0 (opens 2)).domOn 1 = true ∧ (regsOf [(rDomCtl 1, 0)] (head0 (opens 1))).domOn 1 = false ∧
      (head0 (opens 2)).stepOpenBad (opens 2).cmd = true) ∧
    ((head0 (opens 1)).head 0 = some (opens 1) ∧ (head0 (opens 1)).stepOpenBad (opens 1).cmd = false ∧ (head0 (opens 1)).stepState 1 ≠ 4 ∧
      (head0 (opens 1)).writingRun 1 = false) := by decide +kernel

def seals : QEnt := { cmd := cmd oStepSeal [] }
theorem test_w_step_seal :
    (let s := step1 openSt 2 (head0 seals)
     s.head 0 = some seals ∧ seals.cmd.opcode = oStepSeal ∧ s.flt.fatal = false ∧ s.domOn 1 = true ∧ (s.dom 1).step = some openSt ∧ s.stepOpenB 1 = true ∧
       openSt.sealId = none) ∧
    ((head0 seals).head 0 = some seals ∧ ((head0 seals).dom 1).step = none) ∧
    (let st := { openSt with sealId := some 3 }
     let s := step1 st 3 (head0 seals)
     s.head 0 = some seals ∧ (s.dom 1).step = some st ∧ st.sealId ≠ some seals.cmd.id ∧ st.sealId.isSome = true) := by decide +kernel

/-- A step that is ready to seal, with its STEP_SEAL at the head of queue 0. -/
def readySt : StepSt := { openSt with ready := true, sealId := some 7, applied := [0, 1] }
theorem test_w_seal :
    let s := step1 readySt 3 (head0 seals)
    (s.flt.fatal = false ∧ readySt.poison = none ∧ readySt.abandoned = false ∧ (s.dom 1).step = some readySt ∧ s.stepState 1 = 3) ∧
    (s.head 0 = some seals ∧ readySt.sealId = some seals.cmd.id ∧
      ∀ j, j < 160 → ∀ g, s.head j = some g → g.cmd.id = seals.cmd.id → j = 0) := by decide +kernel

/-- SCHEDULE: slot 0 of its record is a step number. -/
def sched : QEnt := { cmd := cmd oUpdate [0, 0], loaded := true, descs := [some (ten 0 13 128)] }
theorem test_w_schedule :
    (sched.cmd.opcode = oUpdate ∧ sched.cmd.form = 0 ∧ (head0 sched).head 0 = some sched ∧ (head0 sched).flt.fatal = false ∧ (head0 sched).domOn 1 = true ∧
      (head0 sched).stepState 1 ≠ 1 ∧ (head0 sched).stepState 1 ≠ 2) ∧
    (∀ n ∈ [1, 2],
      let s := words 0 [n] (step1 openSt 1 (head0 sched))
      let x := (s.ownX { cmd := sched.cmd, q := 0, unit := .updater, descs := sched.descs, pages := sched.pages } none).schedRec
      s.head 0 = some sched ∧ s.flt.fatal = false ∧ s.stepState 1 = 1 ∧ x.1.stop = none ∧ x.2.2 = false ∧
        (n = 1 ↔ x.2.1.getD 0 0 = x.1.crossed.rf (rStepNumber 1) 31 0)) := by decide +kernel

/-- A parameter map with a recipe and no region, and a RUN over it. -/
def rec0 : Recipe := { ops := [], stoch := false, matrix := false, energy := 0, ks := [], rsvd0 := true, count := 0 }
def map0 : PMap := { regions := [], recipes := [rec0], frozenVa := 0, jrnl := [], pages := [pg] }
def upRun : Run := { runOf oUpdate [1, 0] [some (ten 0 13 128), some (ten 256 4 4)] with unit := .updater }
def withMap (s : State) : State := s.setUpd { s.upd with maps := [(1, some map0)] }
theorem test_w_update_run :
    let s := withMap (with1 upRun)
    let x := ({ s := s.upsets {}, e := {}, run := upRun, tile := none } : X).updateRun
    (s.findRun 7 = some upRun ∧ upRun.cmd.id = 7 ∧ upRun.cmd.opcode = oUpdate ∧ upRun.st = .admitted ∧ s.flt.fatal = false ∧
      s.fdResidue upRun {} = none ∧ s.runStacks upRun.cmd = [] ∧ s.unask (.job 7) = s) ∧ ((s.upsets {}).runPairs upRun.cmd {}).2 = true ∧
      ((s.upsets {}).runPairs upRun.cmd {}).1 = s ∧ x.Kept ∧ x.run.cmd = upRun.cmd := by
  unfold X.Kept; decide +kernel
/-- A map with one region of stack 2, a RUN over it, and errors in every pair of that stack. -/
def upRun1 : Run := { runOf oUpdate [1, 2 ^ 16] [some (ten 0 13 128), some (ten 256 4 4)] with unit := .updater }
def pairErr : CFault := { stage := 6, row := 2, col := 0, pat := 1#32 }
/-- The Grate FIFO of stack 2 as it stands in `l`. -/
def queued (l : List GReq) : State :=
  (with1 upRun1).setUpd { (with1 upRun1).upd with grate := if l.isEmpty then [] else [(2, l)], maps := [(1, some { map0 with regions := [
    { g0 := 0, nb := 1, kind := 0, states := 0, stack := 2, recipe := 0, matN := 0, tensor := 0, highVa := 0, residVa := 4096, stateVa := 0, scaleVa := 0 }] })] }
theorem test_w_update_pairs :
    (∀ l ∈ [[], [.job 7], [.scrub, .job 7]], let s := queued l
      s.findRun 7 = some upRun1 ∧ (s.runStacks upRun1.cmd).all (fun k => (s.fifo k).isEmpty || s.serves1 (.job 7) k) = !(l.contains GReq.scrub)) ∧
    (let s := (queued [.job 7]).unask (.job 7)
     s.fdResidue upRun1 {} = none ∧ ((s.upsets {}).runPairs upRun1.cmd { faults := List.replicate 33 pairErr }).2 = false) := by decide +kernel

/-- A batch of one token and one expert in context 0, whose answer block waits in slot 0 at byte 65,536 of tile 0. -/
def cmb : Run := runOf oCombine [0, 64] [some (mat 192 4 1 1), some (ten 0 13 64), some (mat 64 12 1 1), some (mat 128 11 1 1)]
def cmbState (rows epoch : Nat) : State :=
  let s := regsOf [(rRouteCtl 0, 0x10101), (rAqCfg 0, 0x10000 + 2 ^ 39)] (with1 cmb)
  let s := words 0 [epoch + 5 * 2 ^ 16, 2 ^ 8 + 2 ^ 16, 1, 1, rows] s
  let s := words 64 [0x3F800000, 2 ^ 24] s
  let s := words 65536 [5 * 2 ^ 16, 2 ^ 16, 2 ^ 16, 0, 0, 0, 0, 0, 0x40000000] s
  s.modCtx 0 (fun x => { x with queue := [⟨0, 0, 3, false⟩] })
/-- Header, what its row takes. -/
def cmbOf (s : State) : CmbSet × State × Run × CProg :=
  let m := ({ s, e := {}, run := cmb, tile := cmb.unit.tile } : X).combineSet.2
  (m, (s.upsets {}).combineTakes cmb m {})
theorem test_w_combine :
    (∀ p ∈ [(1, 0), (1, 9), (0, 0)], let s := cmbState p.1 p.2
      s.findRun 7 = some cmb ∧ cmb.cmd.id = 7 ∧ cmb.cmd.opcode = oCombine ∧ cmb.st = .admitted ∧ s.flt.fatal = false ∧ s.schedResidue cmb {} = none ∧
      (cmbOf s).1.hbad = false ∧ (cmbOf s).1.bad = false ∧ cmb.setUp = false ∧ (s.combineHeader cmb (cmbOf s).1 = 0 ↔ p.2 = 0) ∧ (cmbOf s).1.assigned = p.1) ∧
    (let s := (cmbState 1 0).setMem { (cmbState 1 0).mem with tpoison := [(0, true)] }; (cmbOf s).1.hbad = true) ∧
    (let s := (cmbState 1 0).setMem { (cmbState 1 0).mem with tpoison := [(8, true)] }; (cmbOf s).1.hbad = false ∧ (cmbOf s).1.bad = true) ∧
    (let k := cmbOf (cmbState 1 0)
     let x := (k.2.1.combineX k.2.2.1 {}).engine
     k.2.2.2.ended k.1 = true ∧ k.2.2.2.failed = false ∧ k.2.2.2.done.length = 1 ∧ x.Kept ∧ x.run.cmd = cmb.cmd ∧ k.2.1.rb (rTwinCtl 1) 0 = false) ∧
    (let s := (cmbState 1 0).modCtx 0 (fun x => { x with queue := [], credits := 1 })
     (cmbOf s).2.2.2.ended (cmbOf s).1 = false ∧ ((cmbOf s).2.1.ctx 0).credits = 1) := by
  unfold X.Kept; decide +kernel
theorem test_w_combine_order :
    let m : CmbSet := { h := 2 ^ 41 + 2 ^ 96 + 2 ^ 129, tmap := [2 ^ 56, 2 ^ 56 + 2 ^ 32], disp := [0, 0], hbad := false, bad := false }
    let blk (e : Nat) : Ans × List Byte × Bool := (⟨0, 0, 3, false⟩, leBytes 32 (e * 2 ^ 40 + 2 ^ 48 + 2 ^ 80) ++ leBytes 4 0, false)
    fbit (cmb.cmd.op 1) 6 = true ∧ (((m.progress cmb.cmd (mat 192 4 1 1) [blk 1, blk 0]).done[1]?).map (fun r => (r.t, r.j))) = some (0, 1) ∧
      bit (m.tmap.getD 0 0) 56 = true := by decide +kernel

/-! ### Witnesses: collectives -/

/-- A tensor at a byte offset of tile 0 of die 0, named from outside. -/
def out0 (off ety n : Nat) : Desc := { ten off ety n with base := off }
/-- A collective over members 0 (this module) and 1 in group 0, with port 3 UP towards member 1. -/
def collRun (op root src dst : Nat) : Run :=
  { runOf op [0, root * 2 ^ 32] [some (out0 0 4 src), some (out0 4096 4 dst)] with unit := .netif }
def inGroup (s : State) : State :=
  let s := regsOf [(rCgroupCtl 0, 1 + 2 * 2 ^ 8 + 2 ^ 24), (rPortStatus 3, 2), (rRouteMask 1, 8)] s
  { s with fab := { s.fab with groups := [(0, [0, 1])] } }
/-- The state that a command leaves. -/
def after (i : Instr) (s : State) : State := match exec i s with | .next t => t | _ => s

def sumRun : Run := collRun oReduceScatter 0 64 32
theorem test_w_coll_stands :
    (∀ p ∈ [(oReduceScatter, 0, 64, 32), (oAllReduce, 0, 64, 64), (oAllGather, 0, 32, 64), (oBroadcast, 0, 64, 64), (oBroadcast, 1, 64, 64)],
      let r := collRun p.1 p.2.1 p.2.2.1 p.2.2.2
      let s := inGroup (with1 r)
      let c := (s.upsets {}).collOf r {}
      (s.findRun 7 = some r ∧ r.cmd.opcode = p.1 ∧ s.findColl 7 = none ∧ s.fdResidue r {} = none ∧ 2 ≤ c.members.length ∧
          ((s.stood r {}).findColl 7).isSome = true) ∧
        (if p.1 = oReduceScatter ∨ p.1 = oAllReduce then opReduces c.op = true ∧ 0 < shardBlocks c.n c.q c.rank
         else if p.2.1 = 1 then c.rank ≠ c.root ∧ c.toStream = false ∧ 0 < c.units (dAt r.descs 1)
         else
          let x := ((s.stood r {}).collX { r with st := .standing }).copyOwn c
          (c.op = oAllGather ∨ (c.op = oBroadcast ∧ c.rank = c.root ∧ c.toStream = false)) ∧ x.stop = none ∧ x.mergeReads.partialPoison = [] ∧
            0 < c.ownUnits (dAt r.descs 0) (dAt r.descs 1))) := by decide +kernel

/-- The reduction stands, and its partner has opened a window. -/
def sumState : State :=
  (after (.reduceScatter 7 {}) (inGroup (with1 sumRun))).modColl 7 (fun c => { c with limit := [0, 4] })
theorem port_one (s : State) (k : Pkt) (p : Nat) (h : s.upPorts k.dst = [p]) : s.portFor k = some p := by
  simp [State.portFor, h, Nat.mod_one]
def sumColl : Coll := (sumState.findColl 7).get (by decide +kernel)
theorem sum_ranks :
    (List.range sumColl.members.length).filter (fun k => k != sumColl.rank && (sumState.upsets {}).portFor (sumColl.proto k) == some 3) = [1] := by
  have hm : sumColl.members.length = 2 := by decide +kernel
  have hr : sumColl.rank = 0 := by decide +kernel
  have hp : (sumState.upsets {}).portFor (sumColl.proto 1) = some 3 := port_one _ _ _ (by decide +kernel)
  rw [hm]
  simp [List.range, List.range.loop, hr, hp]
theorem test_w_burst :
    sumState.findColl 7 = some sumColl ∧ sumState.findRun 7 = some { sumRun with st := .standing } ∧ sumState.flt.fatal = false ∧
      sumState.inGuard = false ∧ sumState.frame.damper.grants .link 3 = true ∧ (sumState.upsets {}).crossings {} = sumState.upsets {} ∧
      (let s1 := sumState.upsets {}
       let ranks := (List.range sumColl.members.length).filter (fun k => k != sumColl.rank && s1.portFor (sumColl.proto k) == some 3)
       let b := Burst.fill s1 ranks 1280 { x := s1.collX { sumRun with st := .standing }, c := sumColl }
       b.pkts ≠ [] ∧ b.x.stop = none ∧ b.x.mergeReads.partialPoison = []) := by
  refine ⟨by decide +kernel, by decide +kernel, by decide +kernel, by decide +kernel, by decide +kernel, by decide +kernel, ?_⟩
  simp only [sum_ranks]
  decide +kernel
/-- A reduction of step 1 at its deadline, with a late store. -/
def lateRun : Run := { sumRun with
  descs := [some (out0 0 4 64), none, some (out0 8192 4 64), some { noDesc with ety := 13, n0 := 4096, s0 := 1 }], pages := [pg] }
def lateState : State :=
  (after (.reduceScatter 7 {}) (step1 openSt 2 (inGroup (with1 lateRun)))).modColl 7 (fun c => { c with isStep := true, deadline := 0, stepNo := 1 })
theorem test_w_deadline :
    (do let c ← lateState.findColl 7
        let r ← lateState.findRun 7
        pure (r.cmd.dom == c.dom && c.mism == [] && c.isStep && !c.expired && decide (c.deadline ≤ lateState.frameNo))) = some true ∧
      lateState.faulted 1 = false ∧ lateState.flt.fatal = false := by decide +kernel

/-! ### Witnesses: the path of a command -/

/-- Ring 0 and completion ring 0 of domain 1, with one fetched entry. -/
def ringed (op : Nat) (ep : Bool) : State :=
  (regsOf [(rRingCfg 0, 1 + 2 ^ 8 + 2 ^ 18), (rRingState 0, 1), (rCplCfg 0, 1 + 2 ^ 8 + 2 ^ 18), (rCplState 0, 1)] up).setRing 0
    { pi := 1, buf := [((cmd op []).words, ep)] }
theorem test_w_dispatch : ∀ p ∈ [(0x00, false), (0x00, true), (0xFF, false)],
    let s := ringed p.1 p.2
    let c : Cmd := ⟨s.pipe.nextId, 0, 0, 1, 0, ((cmd p.1 []).words ++ List.replicate 8 0#64).take 8⟩
    (s.ring 0).buf = ((cmd p.1 []).words, p.2) :: [] ∧ s.ringRuns 0 = true ∧ s.freeSlots (s.ringCpl 0) ≠ 0 ∧ s.cplState (s.ringCpl 0) ≠ 2 ∧
      (s.dispatchCause c = 0 ↔ p.1 = 0x00) ∧ (s.queue c.target).ents.length + b2n (s.smulHolds c.target) < 256 := by decide +kernel

/-- Words of stack memory. -/
def stackWords (dpa : Nat) (ws : List Nat) (s : State) : State :=
  (s.writeBlk (dpa / 256) ((ws.flatMap (leBytes 8)).zipIdx.map (fun b => (dpa % 256 + b.2, b.1))) {}).1
/-- A page-table entry of domain 1 with its CHECK. -/
def pte (addr flags : Nat) : Nat := addr + flags + pteCheck (addr + flags) 1 * 2 ^ 56
/-- The words of a descriptor of n ZA32 elements in the executing tile's store. -/
def dwords (off n : Nat) : List Nat :=
  let x := 2 ^ 30 + off + 2 ^ 52 + 2 ^ 56 + 4 * 2 ^ 128 + 2 ^ 133 + n * 2 ^ 256 + 2 ^ 384
  (List.range 8).map (fun i => x / 2 ^ (64 * i) % 2 ^ 64)
/-- `up` with domain 1's first 2 MiB mapped, three descriptors at 0x1000, and a TRANSFER at the head of queue 0. -/
def moveEnt (ops : List Nat) : QEnt := { cmd := { cmd oTransfer ops with words := ([oTransfer, 100 + 2000 * 2 ^ 32, 0, 0] ++ ops ++ [0, 0, 0]).map (BitVec.ofNat 64) } }
def mapped (ops : List Nat) : State :=
  let s := regsOf [(rPtRoot 1, 0x10000), (rDescTblBase 1, 0x1000)] (head0 (moveEnt ops))
  let s := stackWords 0x1000 (dwords 0 2 ++ dwords 64 2 ++ dwords 128 3 ++ dwords 192 0) s
  stackWords 0x12000 [pte 0 7] (stackWords 0x11000 [pte 0x12000 1] (stackWords 0x10000 [pte 0x11000 1] s))
/-- What DESCRIPTOR_LOAD finds: the cause of its checks, its own cause, the pages it keeps. -/
def loads (ops : List Nat) : Option (Nat × Nat × Bool × Bool) :=
  let s := (mapped ops).upsets {}
  let c := (moveEnt ops).cmd
  let f := s.readDescs {} 1 c.hands
  match f.2 with
  | .ok ds =>
    let ck := f.1.checksOf c ds (some 0)
    let os := ((c.hands.zip ds).zip ck.roles).filterMap (fun t => t.1.2.map (fun d => ({ role := t.2, dir := t.1.1.dir, d } : Opd)))
    let w := f.1.walkAll {} 1 true 1024 (os.flatMap (fun o => o.d.vranges)) []
    some (f.1.descCause c ck os (some 0), ownCause ck os, ck.atOnce, match w.2 with
      | .ok ps =>
        let x := w.1.dataChecks {} { cmd := c, q := 0, unit := .skipper 0, descs := ds, pages := ps }
        x.1.stop.isNone && x.2 == 0
      | _ => false)
  | _ => none
theorem test_w_load :
    (∀ ops ∈ [[2 ^ 19], [2 ^ 16], [2 ^ 17], [2 ^ 16 + 2 ^ 40], [3 + 3 * 2 ^ 16]],
      let s := mapped ops
      s.head 0 = some (moveEnt ops) ∧ (moveEnt ops).cmd.needsLoad = true ∧ s.headServed 0 (moveEnt ops).cmd = true ∧ (moveEnt ops).cmd.bound ≠ 0 ∧ ((s.upsets {}).lacks (moveEnt ops).cmd = true ↔ ops = [2 ^ 19]) ∧
        ((moveEnt ops).cmd.hands.any (fun k => !(k.opt && k.h == 65535) && (k.h == 65535 || decide (8 ≤ k.h))) = true ↔ ops = [2 ^ 19])) := by
  decide +kernel
theorem test_w_load_checks :
    loads [2 ^ 16] = some (0, 0, false, true) ∧ loads [2 ^ 17] = some (2, 0, false, true) ∧ loads [2 ^ 16 + 2 ^ 40] = some (0, 1, false, true) ∧
    loads [3 + 3 * 2 ^ 16] = some (0, 0, true, true) := by
  decide +kernel

/-- The TRANSFER, loaded, with a bound in cycles and tokens. -/
def loaded (bound tokens : Nat) : QEnt :=
  { cmd := { cmd oTransfer [] with words := [oTransfer, bound + tokens * 2 ^ 32, 0, 0, 2 ^ 16, 0, 0, 0].map (BitVec.ofNat 64) }, loaded := true,
    descs := [some (ten 0 4 2), some (ten 64 4 2)] }
theorem test_w_admission :
    ∀ p ∈ [((100, 2000000), true, true, true), ((600000, 10), true, true, true), ((400000, 10), false, false, true),
      ((100, 2000), false, true, false), ((100, 1000), false, true, true)],
    let h := loaded p.1.1 p.1.2
    let s := { head0 h with now := 100000 }
    s.head 0 = some h ∧ h.cmd.boundZero = false ∧ s.headServed 0 h.cmd = true ∧ s.headWaits h = false ∧ s.unitFor 0 h.cmd = some (.tdma 0) ∧
      s.inGuard = false ∧ (s.latchReady 0 h).outranked 0 h.cmd = false ∧ ({ s with frame := { s.frame with guard := true } } : State).inGuard = true ∧
      s.neverFits (.tdma 0) h.cmd = p.2.1 ∧
      (p.2.1 = false → s.fitsTime (.tdma 0) h.cmd = p.2.2.1 ∧ (p.2.2.1 = true → s.frame.damper.grants .general (s.tokensOf (.tdma 0) h.cmd) = p.2.2.2)) := by
  decide +kernel

/-- Runs that have executed: kept, poisoned, an SMUL with a row left. -/
def doneRun (status poison : Nat) : Run := { gat with st := .executed, res := { status, poison, flags := { nv := true, ov := false, uf := false, nx := true } } }
def halfRun : Run := { runOf oSmul [0, 0, 1] [some (mat 0 0 2 3), some (mat 64 0 3 2), some (mat 128 4 2 2)] with
  st := .executed, cont := some { rows := 1, flags := {}, pairs := 0, segs := 0, conts := 1, poison := 0 } }
theorem test_w_completion : ∀ r ∈ [doneRun 0 0, doneRun 2 5, halfRun], (with1 r).findRun 7 = some r ∧ r.cmd.id = 7 ∧ r.st = .executed ∧
    (with1 r).flt.fatal = false ∧ r.unit.tile = some 0 ∧ (r.unfinished = true ↔ r = halfRun) ∧ (r.outcome.status = 2 ↔ r = doneRun 2 5) := by
  decide +kernel

/-- A detected run of tile 0, without a SPARE tile and with one; a replay that passes and one that detects. -/
def detRun (b : Bool) : Run := { gat with st := .detected, detects := 1, detTiles := [0], replayTile := if b then some 48 else none }
def spared (b : Bool) : State := regsOf (if b then [(rTileHealth 48, 1)] else []) (with1 (detRun b))
theorem test_w_replay : ∀ p ∈ [(false, ({} : Env)), (false, bad3), (true, {}), (true, bad3)],
    let s := spared p.1
    let r := detRun p.1
    s.findRun 7 = some r ∧ r.st = .detected ∧ r.badCocoon = false ∧ r.twinDiffer = false ∧ r.replays = 0 ∧ s.schedResidue r p.2 = none ∧
      s.replayFor gat [0] = r.replayTile ∧
      (((s.upsets p.2).replayX r (if p.1 then 48 else 0) p.2).det = true ↔ p.2 = bad3) ∧
      (let r' := { r with badCocoon := true }; (with1 r').findRun 7 = some r' ∧ r'.badCocoon = true) := by decide +kernel
theorem test_w_replay_kept : (({ s := spared false, e := {}, run := detRun false, tile := some 0 } : X).engine).Kept := by
  unfold X.Kept; decide +kernel
theorem test_w_swap : ∀ b ∈ [false, true],
    ({ up with tiles := { up.tiles with swaps := [(0, 0, 48, b)] } } : State).tiles.swaps.find? (fun w => w.1 == 48 * 0 + 0) = some (0, 0, 48, b) := by
  decide +kernel

/-! ### Witnesses: the frame -/

theorem test_w_stoke : (up.pwr.stoked = true ∧ up.rangeState ≠ 2 ∧ up.nextPeriod < 2 ^ 13 ∧ up.flt.fatal = false) ∧
    ({ up with flt := { up.flt with fatal := true } } : State).flt.fatal = true := by decide +kernel
theorem test_w_pool : up.rf rPowerCtl 22 16 ≤ 50 ∧ up.rf rPowerCtl 30 24 ≤ 50 := by decide +kernel
/-- A decode HMUL with one row. -/
def dec : QEnt := { cmd := cmd oHmul [0, 16, 5 + 6 * 2 ^ 32], loaded := true }
theorem test_w_timers :
    (up.pwr.stoked = true ∧ up.frame.guard = false ∧ up.frame.released = false ∧ up.flt.fatal = false) ∧
    (let s := (head0 dec).setTally 5 1#48
     s.Serves 0 oHmul dec ∧ dec.cmd.decode = true ∧ dec.loaded = true ∧ 1 ≤ s.decodeRows dec.cmd) :=
  ⟨by decide +kernel, ⟨⟨by decide +kernel, by decide +kernel, by decide +kernel⟩, by decide +kernel⟩⟩
theorem test_w_limits :
    (let r := { gat with crossed := 16 }
     (with1 r).findRun 7 = some r ∧ r.crosses = true ∧ r.throttled = false ∧ (with1 r).rf rFrameCtl 7 0 ≤ r.crossed) ∧
    (let r := { sumRun with st := .standing, idle := 4 }
     (with1 r).findRun 7 = some r ∧ (with1 r).watches r = true ∧ (with1 r).rf rCfCtl 7 0 ≤ r.idle ∧ 0 < r.idle) ∧
    (let s := step1 { openSt with sealId := some 3, waits := 4 } 3 up
     s.findRun 3 = none ∧ s.sealStalled 3 = some 1) := by decide +kernel
theorem test_w_samples : up.pwr.stoked = true ∧ up.pwr.pkg ≠ .off ∧ Tab.get tempReset up.frame.sites 62 < 32768 ∧
    -32768 ≤ Tab.get tempReset up.frame.sites 62 := by decide +kernel
theorem test_w_emergency : [0, 37].Nodup ∧ (∀ z ∈ [0, 37], z < 38) ∧ up.zFreq 37 / 2 < 20 ∧ 20 < up.zTgt 37 := by decide +kernel

/-! ### Witnesses: the update path -/

def region0 : Region := { g0 := 10, nb := 4, kind := 0, states := 0, stack := 2, recipe := 0, matN := 0, tensor := 0, highVa := 0, residVa := 4096, stateVa := 0, scaleVa := 0 }
def map1 : PMap := { map0 with regions := [region0] }
def blk (g : Nat) (nan ofMark poison : Bool) : GBlk :=
  { dom := 1, step := 1, g, wide := false, elems := List.replicate 32 0, scale := 0, ofMark, nan, poison, rho := 0x3F800000#32 }
def fed1 (b : GBlk) : State :=
  (step1 { openSt with direct := true, latched := some [] } 3 up).setUpd { up.upd with maps := [(1, some map1)], feed := [b] }
theorem test_w_take : ∀ b ∈ [blk 13 true true true, blk 13 false true true, blk 13 false false true, blk 14 false false false, blk 13 false false false],
    let s := fed1 b
    ((s.dom 1).step = some { openSt with direct := true, latched := some [] } ∧
      s.upd.feed.find? (fun b => b.dom == 1 && b.step == 1) = some b ∧ s.stepState 1 = 3 ∧
      s.paramReader 1 = false ∧ s.flt.fatal = false) ∧
    (s.pmap 1 = some map1 ∧ map1.frozenVa = 0 ∧ (map1.region b.g = if b.g = 13 then some (region0, 0) else none)) := by decide +kernel

def ucmd : Ucmd := { dom := 1, step := 1, g := 13, region := 0, recipe := 0, sched := [], blk := blk 13 false false false, gen := 0, direct := true }
def batched : State := (fed1 (blk 13 false false false)).setUpd { up.upd with maps := [(1, some map1)], batch := [ucmd] }
theorem test_w_issue : batched.batchNext ≠ [] ∧ batched.batchTokens = 0 ∧ batched.linkAsks = false ∧
    batched.frame.damper.grants .grate 0 = true ∧ batched.inGuard = false ∧ batched.flt.fatal = false := by decide +kernel

def grated (direct : Bool) : State :=
  regsOf [(rGratePairs 2, 8 + 255 * 256)] (((step1 { openSt with direct, latched := some [] } 3 up).setUpd
    { up.upd with maps := [(1, some { map1 with jrnl := [(0, 0), (0, 0), (0x4000, 4096)] })], grate := [(2, [.micro { ucmd with direct }, .scrub])] }))
/-- What the micro-command reads. -/
def reads (direct : Bool) : X × BlkIn × List Nat × Bool :=
  let v := (((grated direct).upsets {}).setFifo 2 [.scrub]).bump (cUpdDone 1) 1
  ({ s := v, e := inBase {}, run := ownRun 1 map1.pages, tile := none } : X).blkRead region0 rec0 3 1
    (ucmd.blk.elems.map (fun x => (ETy.zg8.val x).scale ucmd.blk.scale)) ucmd.blk.rho (slotsOf32 [])
theorem test_w_ucmd : ∀ b ∈ [true, false],
    (grated b).fifo 2 = .micro { ucmd with direct := b } :: [.scrub] ∧ (grated b).flt.fatal = false ∧ (grated b).pairs 2 ≠ [] ∧
      ((grated b).pmap 1).bind (fun m => m.regions[0]?) = some region0 ∧ ((grated b).pmap 1).bind (fun m => m.recipes[0]?) = some rec0 ∧
      ((grated b).dom 1).step = some { openSt with direct := b, latched := some [] } ∧ (reads b).2.2.2 = false := by decide +kernel

/-- A step in rollback: the entries of its journal, and the FIFO of stack 2. -/
def rolled (js : List (Nat × Nat × Nat × Nat × Bool × Nat)) (l : List GReq) : State :=
  let s := regsOf [(rGratePairs 2, 8 + 255 * 256)] (step1 { openSt with rolling := true, journal := js } 4 up)
  s.setUpd { s.upd with maps := [(1, some { map1 with jrnl := [(0, 0), (0, 0), (0x4000, 4096)] })], grate := if l.isEmpty then [] else [(2, l)] }
theorem test_w_rollback :
    (∀ p ∈ [([], []), ([(2, 0, 0, 3, false, 0)], [.scrub]), ([(2, 0, 0, 3, false, 0)], [.roll 1])],
      let s := rolled p.1 p.2
      let st : StepSt := { openSt with rolling := true, journal := p.1 }
      (s.dom 1).step = some st ∧ s.stepState 1 = 4 ∧ s.ucmds 1 = 0 ∧ s.flt.fatal = false ∧ st.jrnlBad = false ∧ (s.dom 1).jlost = false ∧
        st.stacks.all (fun k => (s.fifo k).isEmpty || s.serves1 (.roll 1) k) = !(p.2.contains GReq.scrub)) ∧
    (let s := rolled [(2, 0, 0, 3, false, 0)] [.roll 1]
     let st : StepSt := { openSt with rolling := true, journal := [(2, 0, 0, 3, false, 0)] }
     st.journal.length ≤ 256 ∧ s.inGuard = false ∧ s.frame.damper.grants .grate st.rollTokens = true ∧ s.linkAsks = false ∧ s.pairs 2 ≠ [] ∧
       (s.pmap 1).isSome = true ∧
       (s.pmap 1).all (fun m =>
         let w := (s.grant .grate st.rollTokens).restore 1 m (2, 0, 0, 3, false, 0)
         (w.dom 1).step.isSome && !(s.jrnlBytes 1 2 m 0 16).2.2) = true) := by
  decide +kernel

def loadsMap (s : State) : Option Nat := match ((s.upsets {}).loadMap {} 1).2 with | .ok _ => none | .fail c _ _ => some c
theorem test_w_map :
    (let s := regsOf [(rUpdMapBase 1, 0x2000), (rDomCtl 1, 2)] (mapped []); s.rb (rDomCtl 1) 1 = true ∧ loadsMap s = none) ∧
    (let s := regsOf [(rDomCtl 1, 2)] up; s.rb (rDomCtl 1) 1 = true ∧ loadsMap s = some 7) := by decide +kernel

/-! ### Witnesses: answers, pins, vectors, scrub, tests -/

/-- A block on its way to slot 0 of context 0: its header, and the epoch of the context. -/
def coming (rows epoch : Nat) : State :=
  let s := regsOf [(rRouteCtl 0, 0x10101), (rAqCfg 0, 0x10000 + 2 ^ 39), (rRouteEpoch 0, epoch)] up
  (words 65536 [5 * 2 ^ 16, rows * 2 ^ 16, 2 ^ 16, 0, 0, 0, 0, 0, 0x40000000] s).modCtx 0 (fun x => { x with inflight := [⟨0, 0, 3, false⟩] })
theorem test_w_answer : ∀ p ∈ [(0, 0), (1, 9), (1, 0)],
    let s := coming p.1 p.2
    let r := s.tileBytesAt (s.aqTile 0) (s.aqOff 0 0) 32
    let u := r.1.modCtx 0 (fun x => { x with inflight := x.inflight.erase ⟨0, 0, 3, false⟩, held := x.held.filter (fun h => h.1 != 3) })
    firstArrival (s.ctx 0).inflight = some ⟨0, 0, 3, false⟩ ∧ r.2.2 = false ∧ (u.answerOk 0 (leNat r.2.1) = true ↔ p.1 = 1) ∧
      (bits (leNat r.2.1) 15 0 = u.epoch 0 ↔ p.2 = 0) ∧ u.rb (rRouteEpoch 0) 16 = false := by decide +kernel

theorem test_w_pins :
    ({ up with flt := { up.flt with pulse := some 10000, smoke := false } } : State).flt.pulse = some 10000 ∧ up.frame.locked = true ∧ up.pwr.pkg ≠ .off ∧
      up.rf rEmberStatus 1 0 = 0 ∧ ({ up with flt := { up.flt with lastKick := some 5 } } : State).flt.lastKick = some 5 := by decide +kernel

/-- Vector 255 pending, masked or not, IMMEDIATE or not, its last message at a time. -/
def vec (pba mask : Nat) (imm : Bool) (last : Nat) : State :=
  let s := regsOf [(rMsixTable + 16 * 255 + 8, mask * 2 ^ 32), (rMsixPba + 24, pba * 2 ^ 63)] up
  { s with host := { s.host with immediate := if imm then [(255, true)] else [], lastMsg := if last = 0 then [] else [(255, last)] } }
theorem test_w_vectors :
    ((vec 1 0 true 0).pbaBit 255 = true ∧ Tab.get boolReset (vec 1 0 true 0).host.immediate 255 = true ∧ (vec 1 0 true 0).masked 255 = false) ∧
    ((vec 1 1 false 0).pbaBit 255 = true ∧ Tab.get boolReset (vec 1 1 false 0).host.immediate 255 = false) ∧
    ((vec 1 1 true 1).pbaBit 255 = true ∧ Tab.get boolReset (vec 1 1 true 1).host.immediate 255 = true ∧
      ({ vec 1 1 true 1 with now := (vec 1 1 true 1).gapEnd 255 } : State).gapEnd 255 ≤ (vec 1 1 true 1).gapEnd 255) ∧
    (vec 0 1 false 0).pbaBit 255 = false := by decide +kernel

theorem test_w_scrub :
    (up.pwr.stoked = true ∧ (up.fifo 23).isEmpty = true ∧ ((queued [.job 7]).fifo 2).isEmpty = false ∧ (queued [.job 7]).serves1 .scrub 2 = false) ∧
    (128 ≤ scrubKey (.queue 5) ∧ (up.upsets {}).integ.nextErr (.queue 5) = none ∧
      (up.upsets { upsets := [.sramWord (.queue 5) 0 8#80] }).integ.nextErr (.queue 5) = some ((.queue 5, 0), 8#80) ∧
      bchDecode (8#80).toNat = .fixed 8) ∧
    (let s := words 0 [5] up
     let k := 0 * tileWords + Tab.get natReset s.integ.pos (32 + 0)
     ((s.upsets { upsets := [.tileWord 0 0 1#80] }).mem.seeWord k).2.2 ≠ .clean ∧ ((s.upsets { upsets := [.tileWord 0 0 1#80] }).mem.seeWord k).2.2 ≠ .bad) ∧
    (up.upsets {}).mem.nextValid 23 (2 ^ 28 * 23 + Tab.get natReset up.integ.pos 23) = none ∧ up.integ.late.contains (scrubKey .module) = false := by
  decide +kernel
theorem test_w_write_back :
    (let m : Mem := { wbq := [(33, [7])] }; Tab.get listReset m.wbq (32 * 1 + 1) = 7 :: [] ∧ (m.seeWord 7).2.2 = .clean) ∧
    (let m : Mem := { wbq := [(33, [7])], terr := [(7, 1#80)] }; Tab.get listReset m.wbq (32 * 1 + 1) = 7 :: [] ∧ (m.seeWord 7).2.2 ≠ .clean) := by
  decide +kernel
theorem test_w_tests :
    (let s := { regsOf [(rTileHealth 51, 1)] up with tiles := { up.tiles with dueAt := [(51, 7)] } }
     Tab.get natReset s.tiles.dueAt (52 * 0 + 51) ≠ 0 ∧ s.tileState 51 = 1 ∧ 51 ∈ s.spares 0 ∧ s.serves 51 = false ∧ s.dieTests 0 = false) ∧
    (let s := { regsOf [(rTileHealth 51, 1)] up with tiles := { up.tiles with dueAt := [(50, 7)] } }
     Tab.get natReset s.tiles.dueAt (52 * 0 + 50) ≠ 0 ∧ s.tileState 50 ≠ 1) ∧
    (let s := { regsOf [(rTileHealth 51, 1), (rTileMap 47, 47)] up with tiles := { up.tiles with tpend := [(47, 4000)] } }
     s.pendingFor (s.physOf (48 * 0 + 47)) = some 4000 ∧ s.rf rSeCtl 47 32 ≤ 4000 ∧ s.hasSpare 0 = true ∧ s.dieTests 0 = false ∧
       s.tiles.drains.contains 47 = false) ∧
    ({ up with tiles := { up.tiles with zeroing := [95] } } : State).tiles.zeroing.contains (48 * 1 + 47) = true := by decide +kernel

/-! ### Witnesses: Chaug -/

def leaf1 : Pkt := { kind := .leaf, vc := 1, src := 1, dst := 0, f := [0, 0, 0, 255, 4], pmask := 1, data := List.replicate 128 0x5A#8 }
def stream1 : Pkt := { kind := .stream, vc := 5, src := 1, dst := 0, f := [3, 0, 0, 1, 5], data := List.replicate 32 0x77#8 }
theorem test_w_packets : (∀ k ∈ [leaf1, stream1], k.vc < 8 ∧ k.src < 1024 ∧ k.dst < 1024 ∧ k.epoch < 2 ^ 16 ∧ k.pmask < 2 ^ 14 ∧
      k.data.length % 16 = 0 ∧ k.units ≤ 15 ∧ k.f.length = k.kind.widths.length ∧
      (k.kind.widths.zip k.f).all (fun p => decide (p.2 < 2 ^ p.1)) = true) ∧ ([leaf1, stream1].map Pkt.units).sum ≤ 15 := by decide +kernel

def flit1 (seq : Nat) (ctrl : Bool) : Flit :=
  { seq, ack := 4095, nak := false, ctrl, kind := 0, crVc := 7, crTotal := 0, payload := padTo 240 leaf1.bytes }
theorem test_w_flit : (flit1 4095 true).payload.length = 240 := by decide +kernel
def link : State := regsOf [(rPortStatus 3, 2)] up
theorem test_w_receive :
    link.portUpB 3 = true ∧ flitOf (List.replicate 256 0#8) = none ∧
    (flitOf (flit1 1 false).bytes = some (flit1 1 false) ∧ (flit1 1 false).seq ≠ (link.port 3).rxSeq) ∧
    (flitOf (flit1 0 false).bytes = some (flit1 0 false) ∧ (flit1 0 false).seq = (link.port 3).rxSeq ∧
      bits (leNat ((flit1 0 false).payload.take 1)) 3 0 ≠ 15) ∧
    flitOf (flit1 9 true).bytes = some (flit1 9 true) := by decide +kernel

/-- A packet in the receive buffer of port 3. -/
def got (k : Pkt) (s : State) : State := s.modPort 3 (fun t => { t with rx := [k] })
/-- The reduction of `sumState` with three members, member 2's leaf of block 0 already here. -/
def sum3 : State := sumState.modColl 7 (fun c => { c with members := [0, 1, 2] })
def sum3dup : State := sum3.modColl 7 (fun c => { c with leaves := [(1, some ⟨[], 0, false⟩)] })
theorem test_w_leaf :
    (let k := { leaf1 with epoch := 5 }
     let s := got k sum3
     s.rxHead 3 1 = some k ∧ k.kind = .leaf ∧ k.dst = s.member ∧ s.flt.fatal = false ∧ (s.takeRx 3 k).groupLive 0 k.epoch = false) ∧
    (∀ b ∈ [true, false], let s := got leaf1 (if b then sum3dup else sum3)
      let u := s.takeRx 3 leaf1
      s.rxHead 3 1 = some leaf1 ∧ leaf1.dst = s.member ∧ s.flt.fatal = false ∧ u.groupLive 0 leaf1.epoch = true ∧
      (u.collAt 0 0).any (fun c => opReduces c.op && decide (c.members.idxOf 1 < c.members.length) && c.members.idxOf 1 != c.rank &&
        decide (0 < shardBlocks c.n c.q c.rank) && c.ety == 4 && leaf1.data.length == 32 * ((tileEty c.ety).getD .za32).size &&
        !c.closed.contains 0 && (Tab.get (fun _ => none) c.leaves (1024 * 0 + c.members.idxOf 1)).isSome == b) = true) := by decide +kernel

def gather1 (seq : Nat) : Pkt := { kind := .gather, vc := 3, src := 1, dst := 0, f := [0, seq, 8], pmask := 0, data := List.replicate 32 0x11#8 }
def gatState : State := regsOf [(rCgroupSeq 0, 1)] (after (.allGather 7 {}) (inGroup (with1 (collRun oAllGather 0 32 64))))
theorem test_w_gather :
    (let s := got (gather1 1) gatState
     (got (gather1 65535) gatState).rxHead 3 3 = some (gather1 65535) ∧ (got (gather1 65535) gatState).seqAhead 0 65535 = false ∧
     ((got (gather1 65535) gatState).takeRx 3 (gather1 65535)).collAt 0 65535 = none ∧
     s.rxHead 3 3 = some (gather1 1) ∧ (gather1 1).dst = s.member ∧ s.flt.fatal = false ∧
     (s.takeRx 3 (gather1 1)).groupLive 0 0 = true ∧ s.seqAhead 0 1 = true) ∧
    (let s := got (gather1 0) gatState
     let u := s.takeRx 3 (gather1 0)
     s.rxHead 3 3 = some (gather1 0) ∧ s.seqAhead 0 0 = false ∧ (do
        let c ← u.collAt 0 0
        let r ← u.findRun c.id
        let dst := dAt r.descs 1
        let w := c.range (c.members.idxOf 1)
        pure (!c.toStream && !opReduces c.op && decide (c.members.idxOf 1 < c.members.length) && c.members.idxOf 1 != c.rank &&
          (rangeFrom 8 2).all (partHas (unitRuns dst.ty dst.bscaled c.n w.1 w.2)) &&
          !(rangeFrom 8 2).any (fun n => c.got.contains (1024 * n + c.members.idxOf 1)))) = some true) := by decide +kernel

/-- Stream 3 of domain 1, its ring at byte 8192 of tile 0, its open burst granted to member 1. -/
def streamed : State :=
  (regsOf [(rStreamCfg 3, 1 + 2 ^ 16 + 2 * 2 ^ 24)] link).modStream 3 (fun t => { t with sender := 1, known := true, limit := 256 })
theorem test_w_stream :
    (let k := { stream1 with epoch := 9 }
     let s := got k streamed
     s.rxHead 3 5 = some k ∧ k.dst = s.member ∧ s.flt.fatal = false ∧ (s.takeRx 3 k).rf (rStreamEpoch 3) 15 0 ≠ k.epoch) ∧
    (let s := got stream1 streamed
     let u := s.takeRx 3 stream1
     let t := u.stream 3
     s.rxHead 3 5 = some stream1 ∧ u.rf (rStreamEpoch 3) 15 0 = stream1.epoch ∧ u.rb (rStreamCfg 3) 16 = true ∧ stream1.f.getD 1 0 = t.burst ∧
       t.known = true ∧ stream1.src = t.sender ∧ stream1.data.length / 16 ≠ 0 ∧ 0 + stream1.data.length / 16 ≤ t.limit ∧
       (rangeFrom 0 (stream1.data.length / 16)).any (fun x => t.got.contains x) = false) := by decide +kernel

def ctl (kind : PKind) (f : List Nat) : Pkt := { kind, vc := 0, src := 1, dst := 0, f }
/-- A BROADCAST into stream 3 by this module. -/
def castState : State := (got (ctl .grant [3, 0, 8]) sumState).modColl 7 (fun c => { c with op := oBroadcast, toStream := true, stream := 3, grants := [none, none] })
theorem test_w_control :
    (∀ p ∈ [(ctl .window [0, 0, 1], sumState), (ctl .window [0, 0, 8], sumState), (ctl .window [0, 1, 8], sumState), (ctl .grant [3, 0, 8], sumState), (ctl .grant [3, 0, 8], castState),
        (ctl .poison [1, 4, 1], step1 openSt 2 link), (ctl .poison [1, 4, 1], link), (ctl .poison [1, 4, 7], link), (ctl .ready [1, 1, 1], link),
        (ctl .ready [1, 1, 1], regsOf [(rRangeStatus, 2)] link)],
      let s := got p.1 p.2
      s.rxHead 3 0 = some p.1 ∧ p.1.dst = s.member ∧ s.flt.fatal = false) ∧
    (let u := (got (ctl .window [0, 0, 8]) sumState).takeRx 3 (ctl .window [0, 0, 8])
     (u.collAt 0 0).any (fun c => decide (c.members.idxOf 1 < c.members.length) && opReduces c.op && c.members.idxOf 1 != c.rank &&
       decide (1 ≤ shardBlocks c.n c.q 1) && decide (shardBlocks c.n c.q 1 < 8)) = true ∧ u.collAt 0 1 = none ∧ u.rb (rCgroupCtl 0) 24 = true ∧
       u.seqAhead 0 1 = true) ∧
    (let find (u : State) := u.fab.colls.find? (fun c => c.toStream && c.stream == 3 && c.rank == c.root && c.members.contains 1)
     let sent (s : State) : State := { s with fab := { s.fab with sent := [(3, 1, 0, 0)] } }
     ((got (ctl .grant [3, 0, 8]) sumState).takeRx 3 (ctl .grant [3, 0, 8])).burstSent 3 1 0 0 = false ∧
     (sent ((got (ctl .grant [3, 0, 8]) sumState).takeRx 3 (ctl .grant [3, 0, 8]))).burstSent 3 1 0 0 = true ∧
     find ((got (ctl .grant [3, 0, 8]) sumState).takeRx 3 (ctl .grant [3, 0, 8])) = none ∧
     (find ((got (ctl .grant [3, 0, 8]) castState).takeRx 3 (ctl .grant [3, 0, 8]))).any (fun c => c.grants.getD (c.members.idxOf 1) none == none) = true) ∧
    (let u := (got (ctl .poison [1, 4, 1]) (step1 openSt 2 link)).takeRx 3 (ctl .poison [1, 4, 1])
     (u.dom 1).step = some openSt ∧ openSt.number = 1 ∧ u.stepOpenB 1 = true) ∧
    (let u := (got (ctl .poison [1, 4, 1]) link).takeRx 3 (ctl .poison [1, 4, 1])
     (u.dom 1).step = none ∧ u.rf (rStepNumber 1) 31 0 ≠ 1 ∧ nextStep (u.rf (rStepLastSealed 1) 31 0) = 1 ∧
       nextStep (u.rf (rStepLastSealed 1) 31 0) ≠ 7 ∧ u.rangeState = 3) := by decide +kernel
theorem test_w_foreign : ∀ k ∈ [leaf1, stream1, ctl .window [], ctl .grant [], ctl .poison [], ctl .ready [], gather1 0],
    let s := got { k with dst := 5 } link
    s.rxHead 3 k.vc = some { k with dst := 5 } ∧ (5 : Nat) ≠ s.member ∧ s.flt.fatal = false := by decide +kernel

/-- A marker of frame 9 with its period, seal map and the period from frame 12 on, on port 3. -/
def mk1 : Marker := { frame := 9, offsetPs := 4000, period := 250, hops := 2, nextPeriod := 500, switchFrame := 12, sealMap := [1, 255] }
def marked (state at' : Nat) : State :=
  let s := regsOf [(rRangeStatus, state), (rRangeCtl, 3 * 2 ^ 10)] link
  { s with fab := { s.fab with markers := [(3, at', mk1.bytes)] }, now := 300000 }
theorem test_w_marker :
    markerOf mk1.bytes = mk1 ∧ (marked 3 0).rangeState = 3 ∧
    (∀ st ∈ [2, 3], (marked st 9).fab.markers.find? (fun m => m.1 == 3) = some (3, 9, mk1.bytes)) ∧
    ((marked 2 9).rangeState = 2 ∧ (marked 2 9).fab.marked = false ∧ 3 = (marked 2 9).rf rRangeCtl 14 10 ∧ mk1.hops ≤ 16 ∧
      mk1.frame ≠ (marked 2 9).frameNo ∧ (marked 2 9).nextPeriod < 2 ^ 13) ∧
    (let s := marked 2 9
     let due := s.frame.stokeAt + s.periodNs
     let d := (mk1.offsetPs + s.rf rRangeStatus 63 32) / 1000
     due + 104 - d = due + 100 ∧ due - 96 - d = due - 100 ∧ d ≤ due - 96 ∧ 100 < due) := by decide +kernel
theorem test_w_detach :
    let s := regsOf [(rRangeStatus, 2)] sumState
    s.rangeState = 2 ∧ s.rf rCfCtl 14 8 ≤ { s.fab with heldStokes := 127 }.heldStokes ∧ s.rb (rCgroupCtl 0) 24 = true := by decide +kernel
def joiner (t0 : Nat) : State :=
  let s := regsOf [(rRangeStatus, 1)] link
  { s with fab := { s.fab with joining := some { frame := 20, period := 250, at' := t0, next := 500, switch := 21 } } }
theorem test_w_joining : (∀ t ∈ [3999, 4000], (joiner t).rangeState = 1 ∧ (joiner t).fab.joining = some { frame := 20, period := 250, at' := t, next := 500, switch := 21 }) ∧
    3999 < (joiner 0).frame.stokeAt + 4000 ∧ (joiner 0).frame.stokeAt + 4000 ≤ 4000 := by decide +kernel

def echoing : State :=
  let s := regsOf [(rRangeStatus, 2), (rRangeCtl, 3 * 2 ^ 10)] link
  { s with now := 700, fab := { s.fab with echoes := [3], replies := [(3, 600)], echoAt := some 100, sinceEcho := 4096 } }
theorem test_w_echo :
    echoing.fab.echoes.contains 3 = true ∧ echoing.portUpB 3 = true ∧ echoing.fab.replies.find? (fun r => r.1 == 3) = some (3, 600) ∧
      echoing.fab.echoAt = some 100 ∧ 3 = echoing.rf rRangeCtl 14 10 ∧ echoing.rangeState = 2 ∧ 4096 ≤ echoing.fab.sinceEcho ∧
      echoing.portUpB (echoing.rf rRangeCtl 14 10) = true := by decide +kernel
theorem test_w_ports :
    let s := regsOf [(rPortCfg 17, 1), (rPortStatus 17, 1)] link
    (3 < 18 ∧ s.portUpB 3 = true) ∧ (s.rb (rPortCfg 17) 0 = true ∧ s.portUpB 17 = false ∧ s.pwr.pkg = .released) := by decide +kernel

/-! ### Witnesses: the host interface -/

/-- Ring 0 with PI, CI and its kick enable. -/
def ringAt (pi ci kick : Nat) : State := (regsOf [(rRingCfg 0, 1 + 2 ^ 8 + kick * 2 ^ 32), (rRingState 0, 1)] up).setRing 0 { pi, ci }
theorem test_w_producer :
    ((ringAt 4 4 0).rb (rRingCfg 0) 0 = true ∧ (ringAt 4 4 0).ringState 0 = 1) ∧
    (let n := (ringAt 4 4 0).ringLen 0
     idxSub (4 + n) 4 ≤ n ∧ n < idxSub (5 + n) 4 ∧ (ringAt 4 4 1).rb (rRingCfg 0) 32 = true ∧ (ringAt 4 4 0).rb (rRingCfg 0) 32 = false ∧
     idxSub ((ringAt 4 4 1).ring 0).pi ((ringAt 4 4 1).ring 0).ci ≤ idxSub (4 + n) 4 ∧
     idxSub 5 4 < idxSub ((ringAt 6 4 1).ring 0).pi ((ringAt 6 4 1).ring 0).ci ∧ 2 ^ 31 ≤ idxSub 3 4 ∧ idxSub (5 + n) 4 < 2 ^ 31) := by decide +kernel
theorem test_w_host :
    ({ up with host := { up.host with dbAsked := true } } : State).host.dbAsked = true ∧
    (((ringAt 1 0 0).setRing 0 { pi := 1, asked := 1 }).ring 0).asked ≠ 0 ∧ (ringAt 0 0 1).rb (rRingCfg 0) 32 = true ∧ up.hostUp = true ∧ (ringAt 0 0 1).hostUp = true ∧
    ((0xFFFF8 : Nat) % 8 = 0 ∧ 0xFFFF8 < 0x100000 ∧ (regsOf [(rTallyOwner 255, 0x101)] up).rb (rTallyOwner (0xFFFF8 / 4096)) 8 = true ∧
      (regsOf [(rTallyOwner 255, 0x101)] up).hostUp = true) := by
  decide +kernel
theorem test_w_window : up.landWin = up ∧ up.hostUp = true ∧ up.mem = ({} : Mem) ∧ up.integ.errs = [] ∧ up.integ.cross = [] ∧ (up.reg rStackWinBase).toNat + 255 < stackEnd ∧ 255 + [1#8, 2#8].length ≤ 2 ^ 32 := by decide +kernel
/-- Memory that lists nothing: no block is poisoned. -/
theorem test_w_window_mem : ∀ b, up.blkPoisoned b = false := by
  have hm : up.mem = ({} : Mem) := by decide +kernel
  intro b
  simp [State.blkPoisoned, hm, Mem.mapPoisoned, Mem.blkValid, Mem.vp, Mem.vbit, Tab.get, boolReset, wordReset, fbit]

/-! ### Witnesses: registers -/

theorem test_w_fields :
    (∀ f ∈ regFields rPowerCtl, 63 < f.lo ∨ f.hi < 63) ∧
    (∀ f ∈ regFields (rPortCfg 0), f.acc = .rw → f.al = false ∧ f.ch = false) ∧
    (∀ f ∈ regFields (rPortCfg 0), f.acc = .rw → (2 ^ 63 : W64) &&& maskW f.hi f.lo = 0#64) ∧
    (∀ f ∈ (regFields (rPortCfg 0)).take 1, f.acc = .rw ∧ f.al = false ∧ f.ch = false ∧ allBits &&& maskW f.hi f.lo ≠ 0#64 ∧
      clampField (rPortCfg 0) f (fld ((1#64 &&& allBits) ||| (0#64 &&& ~~~allBits)) f.hi f.lo) ≠ fld 0#64 f.hi f.lo) ∧ regFields (rPortCfg 0) ≠ [] ∧
    ∀ off ∈ [rFrameCtl, rZoneCtl, rIntegCtl, rCfCtl, rSnufferPolicy], up.canWrite .host = true ∧
      (off ≠ rSnufferPolicy → (up.stored .host off allBits 0#64).2 = true) ∧ (up.stored .host off allBits (up.reg off)).2 = false := by decide +kernel

/-- `up` before the lock, and with a range state. -/
def early (l : List (Nat × Nat)) : State := regsOf ((rSetupLock, 0) :: l) up
theorem test_w_setup :
    up.canWrite .host = true ∧ up.canWrite .chimney = true ∧
    ((early []).canWrite .host = true ∧ (early []).locked = false ∧ (early []).rangeState = 3 ∧ (early []).frame.gateWaits = false ∧
      (early []).frame.switch = none) ∧
    ((early [(rRangeStatus, 0)]).rangeState = 0 ∧ (early [(rRangeStatus, 1)]).rangeState = 1) ∧
    (50 ≤ up.rf rStokePeriodNext 12 0 ∧ up.rf rStokePeriodNext 12 0 ≤ 5000 ∧ up.frameNo + 4 ≤ fld 4#64 47 0 ∧ fld 3#64 47 0 < up.frameNo + 4) ∧
    (step1 openSt 2 up).stepOpenB (fld 1#64 7 0) = true ∧ (regsOf [(rDomCtl 1, 5)] up).faulted (fld 1#64 7 0) = true ∧
    (fld 17#64 4 0 < 18 ∧ up.marked 23 = none) ∧ (fld 999#64 11 0 < 1000 ∧ 2800 < fld 2801#64 11 0) := by decide +kernel

theorem test_w_domains :
    (let k := 48 * 0 + 2
     up.runs.any (fun r => up.occupies r k) = false ∧ (up.queue k).ents = [] ∧ up.rb (rTwinCtl (fld 2#64 7 0)) 0 = false ∧
       up.rb (rTwinCtl (up.tileOwner (pairOf k))) 0 = false ∧ fld 2#64 7 0 ≠ up.tileOwner k ∧
     (with1 gat).runs.any (fun r => (with1 gat).occupies r (48 * 0 + 0)) = true ∧
       twinned.runs.any (fun r => twinned.occupies r (48 * 0 + 1)) = true) ∧
    (up.domOn 255 = false ∧ up.rb (rDomCtl 255) 1 = false ∧ up.locked = true ∧ up.reg (rUpdMapBase 255) = 0#64 ∧
      (regsOf [(rUpdMapBase 255, 512)] up).reg (rUpdMapBase 255) ≠ 0#64 ∧ (early []).locked = false ∧ (early []).domOn 255 = false) ∧
    (up.domOn 1 = true ∧ up.domBusy 1 = false ∧ up.stepState 1 = 0 ∧ (with1 gat).domOn 1 = true ∧ (with1 gat).domBusy 1 = true) ∧
    (fld 0x10000#64 40 16 * 2 ^ 16 < stackEnd ∧ stackEnd ≤ fld 0x018000000000#64 40 16 * 2 ^ 16) ∧
    (up.ctxOn 63 = false ∧ fbit 0x10101#64 0 = true ∧
      up.ctxEnableOk 63 ((up.atWrite .host (rRouteCtl 63)).stored .host (rRouteCtl 63) allBits 0x10101#64).1 = true ∧
      up.ctxEnableOk 63 ((up.atWrite .host (rRouteCtl 63)).stored .host (rRouteCtl 63) allBits 0x101#64).1 = false) ∧
    (up.ctx 63).pend = 0 ∧ (up.ctx 63).held.any (fun h => h.2.1 == (up.epoch 63 + 1) % 65536) = false := by decide +kernel

/-- Group 63 of domain 1, one member long, its list in mapped memory. -/
def listed (ms : List Nat) : State := regsOf [(rCgroupList 63, 0x3000)] (stackWords 0x3000 ms (mapped []))
def listOf (s : State) (v : Nat) : Option (List Nat) :=
  let s1 := ((s.setHeld .host none).setReg (rCgroupCtl 63) ((s.setHeld .host none).stored .host (rCgroupCtl 63) allBits (BitVec.ofNat 64 v)).1).setRb (rCgroupCtl 63) 24 false
  let n := s1.rf (rCgroupCtl 63) 18 8
  match ((s1.upsets {}).mapRead {} (s1.groupDom 63) ((s1.reg (rCgroupList 63)).toNat) (4 * n) 7).2 with
  | .ok bs => some ((List.range n).map (fun i => leNat ((bs.drop (4 * i)).take 4)))
  | _ => none
theorem test_w_groups :
    (listOf (listed [2 ^ 32 * 5]) (1 + 2 * 2 ^ 8 + 2 ^ 24) = some [0, 5] ∧ listOf (listed [2 ^ 32 * 5 + 4]) (1 + 2 * 2 ^ 8 + 2 ^ 24) = some [4, 5] ∧
      (listed []).canWrite .host = true ∧ (listed []).member = 0 ∧ (listed []).rb (rCgroupCtl 63) 24 = false) ∧
    (let s := inGroup up
     s.rb (rCgroupCtl 0) 24 = true ∧ s.runs.any (fun r => r.cmd.isCollective && r.cmd.group == 0) = false ∧
       s.pipe.queues.any (fun q => q.2.ents.any (fun h => h.cmd.isCollective && h.cmd.group == 0)) = false) := by decide +kernel
theorem test_w_streams :
    up.rb (rStreamCfg 1023) 16 = false ∧ fbit 0x10001#64 16 = true ∧ fld 0x10001#64 14 9 < 48 ∧
      up.tileOwner (48 * fld 0x10001#64 8 8 + fld 0x10001#64 14 9) = fld 0x10001#64 7 0 ∧
      (fld 0x10001#64 34 24 + fld 0x10001#64 43 36 + 1) * 4096 ≤ tileBytes ∧ ¬ fld 0x16001#64 14 9 < 48 := by decide +kernel
theorem test_w_rings :
    (let s := regsOf [(rCplCfg 63, 0x101)] up
     s.rb (rRingCfg 63) 0 = false ∧ s.rb (rCplCfg (fld 0x3F000101#64 29 24)) 0 = true ∧
       s.rf (rCplCfg (fld 0x3F000101#64 29 24)) 15 8 = fld 0x3F000101#64 15 8 ∧ s.rf (rCplCfg (fld 0x3F000201#64 29 24)) 15 8 ≠ fld 0x3F000201#64 15 8) ∧
    up.rb (rCplCfg (fld 0x101#64 29 24)) 0 = false ∧ (ringed 0 false).rb (rRingCfg 0) 0 = true ∧ up.rb (rCplCfg 63) 0 = false := by decide +kernel
theorem test_w_tally : up.tallyNamed 255 = false ∧ (head0 (waitAt 9 0 0)).tallyNamed 0 = true := by decide +kernel
theorem test_w_range :
    (early []).locked = false ∧ (early []).pwr.masterSel = false ∧ (early []).rangeState ≠ 2 ∧
    (let s := regsOf [(rRangeStatus, 0)] up
     s.locked = true ∧ s.rangeState = 0 ∧ s.pwr.masterSel = false ∧ (fld 0x8000#64 9 0, fld 0x8000#64 14 10) = s.fab.lockedAs ∧ fbit 0x8000#64 15 = true ∧ fbit 0x8000#64 16 = false) ∧
    (let s := regsOf [(rRangeCtl, 2 ^ 16)] { up with pwr := { up.pwr with masterSel := true } }
     s.locked = true ∧ s.pwr.masterSel = true ∧ (0#64 ||| maskW 16 16) = s.reg rRangeCtl) ∧
    (let sum (v : W64) := ((List.range 8).map (fun i => if i = 7 then fld v 13 0 else (early []).rf (rVcCfg i) 13 0)).sum
     sum 0#64 ≤ 12288 ∧ 12288 < sum 0x3FFF#64) ∧
    (up.rb rMbxCtl 17 = false ∧ (regsOf [(rMbxCtl, 2 ^ 17)] up).rb rMbxCtl 17 = true) := by decide +kernel
theorem test_w_plain :
    State.reset.canWrite .host = false ∧ rDescTblLen 255 % 8 = 0 ∧ (up.setHeld .host (some (0x1020, 5))).held .host = some (0x1020, 5) ∧
      (up.setHeld .host (some (0x1020, 5))).canWrite .host = true ∧ up.domOn 255 = false ∧ up.rb (rDomCtl 255) 1 = false ∧ up.domOn 1 = true ∧
      twoRegs 0x1020 = false ∧ up.ctxOn 63 = false ∧ up.held .host = none := by
  decide +kernel

/-! ### Witnesses: power, reset, Chimney -/

def offState (p : Pkg) : State := { up with pwr := { up.pwr with pkg := p } }
theorem test_w_start :
    State.reset.pwr.aux = false ∧
    ((offState .off).mayPower = true ∧ ∀ k ∈ [2, 3, 4, 5], (offState .off).chim.compOk (offState .off).chim.active k = true) ∧
    ((offState .ready).pwr.pkg = .ready ∧ (regsOf [(rPortCfg 17, 1)] (offState .ready)).rb (rPortCfg 17) 0 = true) ∧
    (let s := { up with frame := { up.frame with locked := false } }
     s.pwr.pkg = .released ∧ s.frame.locked = false) ∧
    (up.pwr.pcieUp = true ∧ up.pwr.bar0 = true ∧ ({ up with pwr := { up.pwr with bar0 := false } } : State).pwr.bar0 = false) := by decide +kernel
theorem test_w_resets :
    (up.pwr.aux = true ∧ up.pwr.pkg ≠ .off) ∧ (up.RegsWf ∧ (ringed 0 false).RegsWf ∧ (ringed 0 false).rb (rRingCfg 0) 0 = true ∧ (ringed 0 false).ringDom 0 = 1) ∧
    (up.reg (rDomCtl 1) ≠ regReset (rDomCtl 1) ∧ up.reg (rDomCtl 2) = regReset (rDomCtl 2)) ∧
    ({ up with pwr := { up.pwr with waitInput := true } } : State).pwr.waitInput = true := by decide +kernel
theorem test_w_chimney :
    up.answers = true ∧ up.awake = true ∧ (∃ i, i < 94 ∧ up.chim.limits.junction ≤ (([(93, 880)].find? (fun r : Nat × Int => r.1 == i)).map (·.2)).getD 0) ∧
    (∀ i, i < 94 → (([(93, 879)].find? (fun r : Nat × Int => r.1 == i)).map (·.2)).getD 0 < up.chim.limits.junction) ∧
    (let s := { up with chim := { up.chim with probation := some (5, 1) } }
     s.chim.probation = some (5, 1) ∧ s.chim.compOk 1 1 = true) := by decide +kernel

/-- An update of agent 2 with the components it has brought, and sessions of endpoint 2. -/
def updating (comps : List Nat) (verified : Bool) : State := { up with chim := { up.chim with update := some { ep := ag, got := comps, verified } } }
def talking (conn : Nat) (key : Option (List Byte)) (l : List Sess) : State := { up with chim := { up.chim with conn := [(ag.no, conn)], idKey := key, sessions := l } }
def sess1 (o : Bool) : Sess := { id := 1, ep := ag, key := [], open_ := o }
theorem test_w_messages :
    up.chim.update = none ∧ (updating [] false).chim.updateOf ag = some { ep := ag } ∧ (updating [] false).awake = true ∧
    (∀ k ∈ [1, 2, 3, 4, 5], ((updating [] false).chim.fill []).compOk (1 - (updating [] false).chim.active) k = true) ∧
    (let c := { (updating [1] false).chim with images := [(9, some [])] }
     c.updateOf ag = some { ep := ag, got := [1] } ∧ (c.fill [1]).compOk (1 - c.active) 1 = false) ∧
    ((updating [3] true).chim.updateOf ag = some { ep := ag, got := [3], verified := true } ∧ [3].contains 1 = false) ∧
    ((talking 1 none []).connOf ag = 1 ∧ (talking 2 none []).connOf ag = 2 ∧ 3 ≤ (talking 3 none []).connOf ag ∧ (talking 3 none []).answers = true ∧
      (talking 3 none []).chim.idKey = none ∧ (talking 3 (some []) []).chim.idKey.isSome = true ∧
      (talking 3 (some []) []).chim.sessions.length < 4 ∧ 4 ≤ (talking 3 (some []) (List.replicate 4 (sess1 true))).chim.sessions.length) ∧
    ((talking 3 none [sess1 false]).chim.sessOf ag 1 = some (sess1 false) ∧ (sess1 false).open_ = false ∧
      (talking 3 none [sess1 true]).chim.sessOf ag 1 = some (sess1 true) ∧ (sess1 true).open_ = true) ∧
    (up.busy ag = false ∧ ({ up with chim := { up.chim with busy := [(ag.no, 9)] } } : State).busy ag = true ∧
      (((talking 3 none []).chim.sessOf ag 1).map (·.open_)).getD false = false ∧
      Tab.get keyReset up.chim.jobKeys 255 = none ∧
      Tab.get keyReset { up.chim with jobKeys := [(255, some [])] }.jobKeys 255 ≠ none) := by decide +kernel
theorem test_w_faults : up.flt.fatal = false ∧ up.faulted 1 = false := by decide +kernel

/-! ### Witnesses: further clauses -/

/-- What is used is decoded first: in a calm state that changes nothing. -/
theorem test_w_calm : (∀ (s : State) (q : Nat) (w : ScrubStore) (u : FdUnit), s.calm →
      s.seeHead q = s ∧ s.seeAdmit q = s ∧ s.seeSram w = s ∧ s.fdCheck u = s ∧ s.seeStoke = s) ∧
    (∀ h : QEnt, (head0 h).calm) ∧
    ∀ s ∈ [with1 gat, twinned, cmbState 1 0, sumState, lateState, mapped [], grated true, rolled [] [], batched, coming 1 0,
        fed1 (blk 13 true true true), withMap (with1 upRun), step1 openSt 2 up],
      s.integ.errs = [] ∧ s.integ.resid = [] := by
  refine ⟨fun s q w u h => ⟨State.seeHead_calm h.1 q, State.seeAdmit_calm h q, State.seeSram_calm h.1 w, State.fdCheck_calm h.2 u, State.seeStoke_calm h⟩,
    fun h => ⟨rfl, rfl⟩, by decide +kernel⟩

/-- An error of the odd tile's execution that its word code takes for a correctable one: only the digests differ. -/
def unseen : Env := { twinFaults := [{ stage := 2, row := 0, col := 0, pat := 447#32 }] }
def twinSpare (b : Bool) : State := if b then regsOf [(rTileHealth 48, 1)] twinned else twinned
theorem test_w_digests : ∀ b ∈ [true, false],
    let s := twinSpare b
    let x0 := s.entering gat unseen
    let x := x0.engine
    let y := ({ x0 with e := { unseen with faults := unseen.twinFaults } } : X).engine
    x.stop = none ∧ x.cause = 0 ∧ x.det = false ∧ y.det = false ∧ x.digest ≠ y.digest ∧
      (((x.s.usedBy x0.run).replayFor x0.run [(x.s.usedBy x0.run).physOf 0] = none) ↔ b = false) := by decide +kernel
theorem test_w_even : let e : Env := { faults := bad3.faults }; (twin e).1.det = true := by decide +kernel
theorem test_w_pages : ∀ p ∈ (runOf oVclear [] []).pages ++ [pg], p.host = true ∨ p.addr + p.size ≤ stackEnd := by decide +kernel

theorem test_w_member : ∀ b ∈ [true, false],
    let s := { regsOf [(rRangeStatus, 2)] up with fab := { up.fab with marked := b } }
    s.pwr.stoked = true ∧ s.rangeState = 2 ∧ s.fab.marked = b := by decide +kernel
theorem test_w_residue :
    let s := { up with integ := { up.integ with resid := [.scheduler, .scheduler] } }
    s.frame.guard = false ∧ s.flt.fatal = false ∧
      (((s.timeTo (s.frame.stokeAt + s.periodNs - 2000)).fdCheck .scheduler).fdCheck .damper).flt.fatal = true := by decide +kernel

/-- A step whose map has a frozen bitmap at VA 0x8000 of its page: the bits of its region, or its blocks poisoned. -/
def frozenMap : PMap := { map1 with frozenVa := 0x8000 }
def iced (bits : Option Nat) : State :=
  let s := (fed1 (blk 13 false false false)).setUpd { (fed1 (blk 13 false false false)).upd with maps := [(1, some frozenMap)] }
  match bits with
  | some b => stackWords 0x8000 [b] s
  | none => s.setMem (s.mem.poisonBlk 128)
theorem test_w_frozen : ∀ p ∈ [(some 8, false, true), (some 7, false, false), (none, true, false)],
    let s := iced p.1
    let fz := s.peek {} 1 frozenMap.pages (frozenMap.frozenVa + frozenMap.position 0 13 / 8 : Nat) 1
    s.upd.feed.find? (fun b => b.dom == 1 && b.step == 1) = some (blk 13 false false false) ∧ s.pmap 1 = some frozenMap ∧
      fz.2.2 = p.2.1 ∧ (p.2.1 = false → bit fz.2.1 (frozenMap.position 0 13 % 8) = p.2.2) := by decide +kernel

/-- A batch that costs tokens, beside a collective that asks for a burst. -/
def rec1 : Recipe := { rec0 with energy := 5000 }
def busyLink : State := sumState.setUpd { sumState.upd with maps := [(1, some { map1 with recipes := [rec1] })], batch := [ucmd] }
theorem test_w_link_first : busyLink.batchNext ≠ [] ∧ busyLink.batchTokens ≠ 0 ∧ busyLink.frame.damper.grants .grate busyLink.batchTokens = true ∧
    busyLink.linkAsks = true := by
  have hp : busyLink.portFor (sumColl.proto 1) = some 3 := port_one _ _ _ (by decide +kernel)
  have hc : busyLink.fab.colls = [sumColl] := by decide +kernel
  have hr : busyLink.findRun sumColl.id = some { sumRun with st := .standing } := by decide +kernel
  have hn : (Burst.next { x := busyLink.collX { sumRun with st := .standing }, c := sumColl } busyLink 1).isSome = true := by decide +kernel
  refine ⟨by decide +kernel, by decide +kernel, by decide +kernel, ?_⟩
  have hg : busyLink.frame.damper.grants .link 3 = true := by decide +kernel
  have hm : 1 ∈ List.range sumColl.members.length := by decide +kernel
  have hk : (1 : Nat) ≠ sumColl.rank := by decide +kernel
  simp only [State.linkAsks, hg, hc, hr, List.any_cons, List.any_nil, Bool.true_and, Bool.or_false, List.any_eq_true]
  exact ⟨1, hm, by simp [hk, hp, hn]⟩

/-- The journal of stack 2 has room for an entry, or none at all; a plane of the block is poisoned. -/
theorem test_w_journal :
    (let s := grated false
     (s.pmap 1).all (fun m => (s.journal 1 2 m (List.replicate 128 0#8) (0, 3, false, 0)).isSome &&
       (s.journal 1 2 { m with jrnl := [] } (List.replicate 128 0#8) (0, 3, false, 0)).isNone) = true) ∧
    (let s := (grated true).setMem ((grated true).mem.poisonBlk 0)
     (({ s, e := inBase {}, run := ownRun 1 map1.pages, tile := none } : X).blkRead region0 { rec0 with ops := [4] } 0 1 [] 0#32 []).2.2.2 = true) := by decide +kernel

/-- A BROADCAST whose root, this module, names no source. -/
def rootless : State := { inGroup (mapped []) with fab := { (inGroup up).fab with groups := [(0, [0, 1])] } }
theorem test_w_rootless : let c := cmd oBroadcast [65535]
    c.hands.any (fun k => !(k.opt && k.h == 65535) && (k.h == 65535 || decide (8 ≤ k.h))) = false ∧ rootless.lacks c = true ∧
      (rootless.groupMembers c.group).idxOf rootless.member = c.root := by decide +kernel

/-- Block 1 of stack 0 holds data with one wrong symbol of die 3; beside it, the corrected errors that the pass has counted of that die. -/
def wrongSym (seen : Nat) : State :=
  let s := stackWords 0x100 [5] up
  { s with mem := { s.mem with serr := [(18 * 16 + 3, 5#8)] }, integ := { s.integ with passErr := [(3, seen)] } }
theorem test_w_scrub_block : ∀ n ∈ [0, 65534],
    let s := wrongSym n
    ((s.fifo 0).isEmpty || s.serves1 .scrub 0) = true ∧ (s.upsets {}).integ.errs = [] ∧
      (s.upsets {}).mem.nextValid 0 (2 ^ 28 * 0 + Tab.get natReset s.integ.pos 0) = some 1 ∧ ((s.upsets {}).decode 1).1 = .fixed 3 ∧
      (s.rf rIntegCtl 15 0 ≤ Tab.get natReset (s.upsets {}).integ.passErr (18 * 0 + 3) + 1 ↔ n = 65534) ∧ s.marked 0 = none := by decide +kernel

/-- The BROADCAST has begun a burst to member 1, of the epoch of a GRANT or of another. -/
def casting (epoch : Nat) : State := castState.modColl 7 (fun c => { c with grants := [none, some (0, epoch)] })
theorem test_w_grants : ∀ p ∈ [(casting 5, some (0, 5)), (castState, none)],
    let k := ctl .grant [3, 0, 8]
    let u := (got k p.1).takeRx 3 k
    let u' := u.dropUnsent (fun q => q.kind == .stream && q.f.getD 0 0 == 3 && q.dst == k.src && q.epoch != k.epoch)
    u.burstSent 3 k.src k.epoch 0 = false ∧ (u'.sendersTo 3 k.src).length = 1 ∧
      ((u'.sendersTo 3 k.src).head?.map (fun c => c.burstTo k.src)) = some p.2 ∧ ((u'.sendersTo 3 k.src).head?.map (fun c => (u'.findRun c.id).isSome)) = some true ∧
      k.epoch ≠ 5 := by decide +kernel

/-! ### Witnesses: what an execution writes -/

/-- A TRANSFER within tile 0, one from there into block 0 of the stacks, one that clears blocks 1 and 2. -/
def moving : Run := runOf oTransfer [] [some (ten 0 4 2), some (ten 64 4 2)]
def clearing : Run := { runOf oVclear [] [some { noDesc with ety := 13, base := 256, n0 := 512, s0 := 1 }] with pages := [pg] }
/-- No stored error: every word reads clean. -/
theorem clean_words (m : Mem) (h : m.terr = []) (k : Nat) : (m.seeWord k).2.2 ≠ .bad := by
  simp [Mem.seeWord, h, Tab.get, errReset]
theorem test_w_bytes :
    (let x := xOf (words 0 [7, 9] (with1 moving)) moving {}
     x.s.integ.errs = [] ∧ Tab.wf bufReset x.buf = true ∧ (locTile 64, 7#8, false) ∈ x.bytes ∧
       (∀ w ∈ x.bytes, 2 ^ 44 ≤ w.1 → (w.1 - 2 ^ 44) / 8 = 64 / 8 → w.2.2 = false) ∧ (x.s.tileRead 64).2 = false ∧ locTile 0 ∉ x.bytes.map (·.1)) ∧
    (let x := xOf (words 0 [7, 9] (with1 part)) part {}
     x.Kept ∧ (4, 9#8, false) ∈ x.bytes ∧ (∀ w ∈ x.bytes, w.1 / 256 = 4 / 256 → w.2.2 = false ∧ tries x.e (4 / 256) = []) ∧ x.clears = [] ∧
       255 ∉ x.bytes.map (·.1)) := by
  unfold X.Kept; decide +kernel
theorem test_w_clear :
    ready (with1 clearing) 7 oVclear clearing {} = true ∧ (xOf (with1 clearing) clearing {}).Kept ∧ (xOf (with1 clearing) clearing {}).s.integ.errs = [] ∧
    (let d := dAt clearing.descs 0
     256 ∣ d.base ∧ 256 ∣ d.n0 ∧ clearing.pages.length ≤ 1024 ∧ d.base ≤ 767 ∧ 767 < d.base + d.n0 ∧ pageOf clearing.pages 767 = some pg) := by
  unfold X.Kept; decide +kernel
theorem test_w_clear_page : 256 ∣ pg.va ∧ 256 ∣ pg.addr ∧ 256 ∣ pg.size ∧ ∀ va, pg.va ≤ va → va < pg.va + pg.size → pageOf clearing.pages va = some pg := by
  refine ⟨by decide, by decide, by decide, fun va h1 h2 => ?_⟩
  simp [pageOf, clearing, h1, h2]
theorem test_w_values :
    (let x := (words 0 [7, 9] (with1 moving)).entering moving {}
     let s := dAt x.run.descs 0
     let d := dAt x.run.descs 1
     copies s d = true ∧ d.space ≠ 3 ∧ d.bscaled = false ∧ s.ty = d.ty ∧ d.ty ≠ .bitmap ∧ d.ty ≠ .int4 ∧ s.esz = d.esz ∧ x.stop = none ∧ x.under = [] ∧
       x.e.faults = [] ∧ x.s.integ.errs = [] ∧ x.s.mem.terr = [] ∧ (∀ p ∈ x.run.pages, p.write = true) ∧
       (∀ l ∈ [0, 1], (x.pat s 1 l).1.stop = none ∧ none ∉ x.elLocs d l ∧ d.at l ≠ none) ∧ ([0, 1].flatMap (x.elLocs d)).Nodup ∧
       ∀ a ∈ [0, 1].flatMap (x.elLocs s), a ∉ [0, 1].flatMap (x.elLocs d)) ∧
    (let hm := runOf oHmul [] [some (mat 0 0 2 3), some (mat 64 0 3 2), some (mat 128 4 2 2)]
     let x := (words 0 [0x40404040, 0x4040] (words 64 [0x40404040, 0x4040] (with1 hm))).entering hm {}
     let y := dAt x.run.descs 2
     let r := x.hmulWith []
     x.under = [] ∧ x.e.faults = [] ∧ r.1.stop = none ∧ y.ty ≠ .bitmap ∧ y.ty ≠ .int4 ∧ x.run.cmd.acc = false ∧ y.at (1 + y.N0 * 1) ≠ none ∧
       ∃ h ∈ r.2.1, h.m = 1 ∧ h.n = 1 ∧ h.skip = false ∧ h.v = 0x40400000#32) ∧
    (List.replicate 64 ((0#32, {}) : W32 × Flags)).length = 32 * 2 := by decide +kernel

/-! ### Witnesses: windows, rollbacks, replays -/

/-- Two late windows of domain 1: of step 0, older than the one that seals, with a leaf held and one missing; of step 1 with slots. -/
def lateWin (step slots : Nat) : LateWin :=
  { dom := 1, step, group := 0, seq := 0, lateSlots := slots, absent := [(0, 1)], held := [(2, 0, 1, ⟨List.replicate 32 1, 0, false⟩)], va := 0,
    pages := [pg], q := 0, ety := 4 }
def sealing : State :=
  let s := regsOf [(rCledger 1 0 0, 2 ^ 32), (rCledger 1 0 7, 5)] (step1 readySt 3 (head0 seals))
  { s with fab := { s.fab with lates := [lateWin 0 4, lateWin 1 4] } }
theorem test_w_seal_late :
    (∀ w ∈ sealing.fab.lates, ∀ p ∈ w.pages, p.host = true ∨ p.addr + p.size ≤ stackEnd) ∧
    sealing.fab.lates.filter (fun w => w.dom == 1 && (w.step != readySt.number || w.lateSlots == 0)) = [lateWin 0 4] ∧ sealing.cledIx 1 0 = some 0 ∧
    sealing.stepState 1 = 3 ∧ (sealing.dom 1).step = some readySt := by decide +kernel
/-- A rollback whose stack has no working pair. -/
def stuck : State := regsOf [(rGratePairs 2, 0)] (rolled [(2, 0, 0, 3, false, 0)] [.roll 1])
def stuckSt : StepSt := { openSt with rolling := true, journal := [(2, 0, 0, 3, false, 0)] }
theorem test_w_rollback_stuck :
    (stuck.dom 1).step = some stuckSt ∧ stuckSt.stacks.all (fun k => (stuck.fifo k).isEmpty || stuck.serves1 (.roll 1) k) = true ∧
      (stuck.dom 1).jlost = false ∧ stuck.inGuard = false ∧ stuck.frame.damper.grants .grate stuckSt.rollTokens = true ∧ stuck.linkAsks = false ∧
      stuck.rollStuck stuckSt = true ∧ (stuck.pmap 1).isSome = true ∧
      (let t := stuck.contained 1 { cls := 2, src := 27 } []
       (t.dom 1).step.any (fun st' => st'.journal == stuckSt.journal && t.rollStuck st') = true) := by decide +kernel
theorem test_w_no_record : (let s := (fed1 (blk 13 false false false)).modStep 1 (fun st => { st with latched := none })
    (s.dom 1).step = some { openSt with direct := true, latched := none } ∧ s.upd.feed.find? (fun b => b.dom == 1 && b.step == 1) = some (blk 13 false false false)) := by decide +kernel
theorem test_w_staged : batched.upd.staged = [] ∧ (batched.fifo 2).length ≤ 512 := by decide +kernel

/-- A detected run with digests of both tiles, its replay on a tile or none; a second replay; a replay on a tile that is quarantined. -/
def twinRun (on : Option Nat) (d1 d2 : Nat) : Run :=
  { gat with st := .detected, detects := 1, detTiles := [0], replayTile := on, twinDiffer := true, digest := d1, digestTwin := d2 }
def again : Run := { detRun true with replays := 1, detects := 2, detTiles := [0, 48], replayTile := some 49 }
theorem test_w_replay_ends :
    (let s := spared true
     let d := ((s.upsets {}).replayX (twinRun (some 48) 0 0) 48 {}).digest
     (∀ p ∈ [(d, d + 1), (d + 1, d), (d + 1, d + 2)], let r := twinRun (some 48) p.1 p.2
       let s := (regsOf [(rTileHealth 48, 1)] (with1 r))
       s.findRun 7 = some r ∧ r.badCocoon = false ∧ s.noReplay r = false ∧
         (((s.upsets {}).replayX r r.replayOn {}).det = false ∧ ((s.upsets {}).replayX r r.replayOn {}).digest = d)) ∧
     ((s.upsets bad3).replayX (twinRun (some 48) 0 0) 48 bad3).det = true) ∧
    (with1 (twinRun none 0 1)).noReplay (twinRun none 0 1) = true ∧
    (regsOf [(rTileHealth 0, 3)] (with1 (detRun false))).noReplay (detRun false) = true ∧
    (∀ e ∈ [({} : Env), bad3], let s := regsOf [(rTileHealth 49, 1)] (with1 again)
      s.findRun 7 = some again ∧ s.noReplay again = false ∧ (((s.upsets e).replayX again again.replayOn e).det = true ↔ e = bad3)) ∧
    (let r := { runOf oVclear [] [some { noDesc with ety := 13, base := 256, n0 := 512, s0 := 1 }] with st := .detected, detTiles := [0], pages := [pg] }
     (r.clearStacks = [0]) ∧ (with1 r).findRun 7 = some r ∧ r.clearStacks.all (fun k => ((with1 r).fifo k).isEmpty || (with1 r).serves1 (.job 7) k) = true ∧
       (let s := (with1 r).setUpd { up.upd with grate := [(0, [.scrub])] }
        r.clearStacks.all (fun k => (s.fifo k).isEmpty || s.serves1 (.job 7) k) = false)) := by decide +kernel

/-! ### Witnesses: grants, pins, registers, power -/

theorem test_w_grant_course : let k := ctl .grant [3, 0, 8]
    let u := (got k (casting 0)).takeRx 3 k
    let u' := u.dropUnsent (fun q => q.kind == .stream && q.f.getD 0 0 == 3 && q.dst == k.src && q.epoch != k.epoch)
    (got k (casting 0)).rxHead 3 0 = some k ∧ u.burstSent 3 k.src k.epoch 0 = false ∧
      (u'.sendersTo 3 k.src).all (fun c => (c.burstTo k.src).all (fun b => b.2 == k.epoch)) = true ∧
      ((u'.sendersTo 3 k.src).find? (fun c => c.burstTo k.src == some (0, k.epoch))).isSome = true := by decide +kernel
theorem test_w_bar : ∀ b ∈ [true, false], let s := { up with pwr := { up.pwr with d3 := b } }
    s.pwr.pcieUp = true ∧ s.pwr.bar0 = true ∧ s.pwr.d3 = b ∧ (0#32 : W32).toNat % 4 = 0 := by decide +kernel
theorem test_w_cfg_off : ∃ off, off ≠ Config.msixCap := ⟨Config.msixCap + 1, by omega⟩
theorem test_w_held : ({ up with pwr := { up.pwr with pkg := .off } } : State).mayPower = true ∧
    testFails 30 0 1 = true := by decide +kernel
theorem test_w_lock_switch : let s := { early [] with frame := { (early []).frame with switch := some (500, 9) } }
    s.canWrite .host = true ∧ s.atWrite .host rSetupLock = s ∧ s.locked = false ∧ s.rangeState = 3 ∧ s.frame.switch ≠ none := by decide +kernel
theorem test_w_fatal_range : let s := { marked 2 9 with flt := { (marked 2 9).flt with fatal := true } }
    s.rangeState = 2 ∧ s.fab.marked = false ∧ s.flt.fatal = true ∧ s.fab.markers.find? (fun m => m.1 == 3) = some (3, 9, mk1.bytes) := by decide +kernel
theorem test_w_masked : let s := { vec 1 1 false 0 with pwr := { up.pwr with msixOn := false } }
    s.pwr.bar0 = true ∧ s.pwr.d3 = false ∧ s.pwr.msixOn = false := by decide +kernel
theorem test_w_kind_write_back :
    (∀ l ∈ [[], [((ScrubStore.module, 5), 1#80)]], let s := { up with integ := { up.integ with wbq := [(128 + 5, [(.module, 5)])], errs := l } }
      Tab.get wordsReset s.integ.wbq (128 + 5) = (.module, 5) :: [] ∧ s.integ.errs.find? (fun r => r.1 == (ScrubStore.module, 5)) = l.head?) ∧
    bchDecode (1#80).toNat = .fixed 1 := by decide +kernel
theorem test_w_coolant :
    (let s := { up with chim := { up.chim with hotSince := some (0, false) }, now := 10000000000 }
     s.answers = true ∧ s.chim.limits.coolantHot < (([(94, (400 : Int))].find? (fun r : Nat × Int => r.1 == 94)).map (·.2)).getD 0 ∧
       0 + s.chim.limits.coolantS * 1000000000 ≤ s.now) ∧ up.chim.hotSince = none := by decide +kernel
theorem test_w_engine : let r : Run := { runOf oTransfer [] [] with unit := .fdma 0 }
    (up.noEngine 96 (cmd oTransfer [])) = false ∧ (let s := { up with pipe := { up.pipe with runs := (List.range 16).map (fun i => { r with cmd := { r.cmd with id := 100 + i }, unit := .fdma i }) } }
      s.noEngine 96 (cmd oTransfer [])) = true := by decide +kernel
theorem test_w_stream_stale : let k := { stream1 with epoch := 9, src := 2 }
    (got k streamed).rxHead 3 5 = some k ∧ ((got k streamed).stream 3).sender ≠ k.src := by decide +kernel
theorem test_w_eids : ag.eid ≠ 0 ∧ (⟨.pcie, 0⟩ : Peer).eid = 0 ∧ up.busy ⟨.pcie, 0⟩ = false := by decide +kernel
theorem test_w_msix_halves : up.held .host = none ∧ ((up.setHeld .host none).seeSram .module).ctxOn 63 = false ∧ rMsixTable % 8 = 0 := by decide +kernel

/-! ### Worked examples of the spec -/

/-- Table NF-2. -/
theorem test_formats : ∀ p ∈ [((1 : Int), (0 : Int), [0x40, 0x40, 0x4000, 0x4000]), (-1, 0, [0xC0, 0xC0, 0xC000, 0xC000]),
      (1, -1, [0x38, 0x3C, 0x3E00, 0x3F80]), (3, 0, [0x4C, 0x46, 0x4300, 0x40C0]), (-3, -1, [0xC4, 0xC2, 0xC100, 0xC040]),
      (3, -4, [0x2C, 0x36, 0x3B00, 0x3EC0])],
    [ETy.zf8, .zg8, .zf16, .zg16].map (fun t => convTo t false none (.fin p.1 p.2.1)) = p.2.2.map (fun x => (x, ({} : Flags))) := by decide +kernel
theorem test_za32 : [((1 : Int), (0 : Int)), (-1, 0), (1, -1), (3, 0), (-3, -1), (3, -4)].map (fun p => (toZA32 (.fin p.1 p.2)).1) =
    [0x3F800000#32, 0xBF800000#32, 0x3F000000#32, 0x40400000#32, 0xBFC00000#32, 0x3E400000#32] := by decide +kernel
/-- "Example: ZA32 into ZF8". -/
theorem test_convert_zf8 : [0x43740000#32, 0x43780000#32, 0x3A000000#32, 0xBE400000#32, 0x7F800000#32, 0x7FC00003#32].map
      (fun w => convTo .zf8 false none (W32.ex w)) =
    [(0x7F, { nx := true }), (0x7F, { ov := true }), (0x00, { uf := true, nx := true }), (0xAC, {}), (0x7F, { ov := true }), (0x80, { nv := true })] ∧
    convTo .zf8 true none (W32.ex 0x7F800000#32) = (0x80, { nv := true, ov := true }) := by decide +kernel
/-- "Example: one ZM32 update", and the halfway value after it. -/
theorem test_zm32_update : (zm32Of (.fin (8192 + 13) (-13))).1 = 0x4001D000#32 ∧ (zm32Of (.fin 1025 (-10))).1 = 0x40007FFF#32 := by decide +kernel
/-- "Example: dot product with an overflowing product and a NaN product". -/
theorem test_products :
    let v (x : Nat) (s : Int) := (ETy.zf8.val x).scale s
    [mulEx (v 0x40 0) (v 0x4C 0), mulEx (v 0x80 0) (v 0x48 0), mulEx (v 0x44 0) (v 0xC0 0), mulEx (v 0x40 64) (v 0x40 64),
      mulEx (v 0x38 64) (v 0x38 64), mulEx (v 0 0) (v 0 0)] =
    [(0x40400000#32, {}), (0x7FC00001#32, { nv := true }), (0xBFC00000#32, {}), (0x7F800000#32, { ov := true }), (0x7E800000#32, {}), (0#32, {})] := by
  decide +kernel

/-- "Example: one dense row among sparse rows". -/
theorem test_smul_charge : rowCharge (List.range 1900) 128 = 15292 ∧ rowCharge ((List.range 64).map (32 * ·)) 128 = 517 ∧
    takeRows (fun m => if m = 0 then 15292 else 517) 64 50000 65 0 0 = 64 := by decide +kernel
/-- "Example: a tile in each form". -/
theorem test_tile_header :
    let t (form : Bool) (nnz : Nat) : TileHdr := { form, ety := 2, scaled := false, rows := 4, cols := 64, nnz }
    ([t true 40, t false 220].map (fun t => (t.bitmapOff, t.scaleOff, t.valueOff, t.bytes, leNat (t.toBytes.take 8), leNat ((t.toBytes.drop 8).take 8)))) =
      [(64, 128, 128, 256, 0x0000004000040005, 0x0000010000000028), (0, 64, 64, 576, 0x0000004000040004, 0x00000240000000DC)] := by decide +kernel
/-- "Example: every token picks the same expert", with three alternates and with none. -/
theorem test_route :
    let os := List.replicate 14 (some [2, 5, 0, 7, 1, 3, 4, 6])
    let a := assignAll os 8 2 3 3
    a.served.length = 24 ∧ a.dropped = 4 ∧ (a.served.filter (fun p => p.2.2.2.2 != 0)).length = 18 ∧
    (3, 0, 0, 0, 1) ∈ a.served ∧ (3, 1, 3, 0, 3) ∈ a.served ∧ (assignAll os 8 2 3 0).dropped = 22 := by decide +kernel
/-- "Example: one Draught stoke after the same-expert batch". -/
theorem test_draught :
    let s := regsOf [(rRouteCtl 0, 1 + 2 ^ 8 + 8 * 2 ^ 16), (rDraughtBeta 0, 0x3A800000), (rDraughtBmax 0, 0x3F000000)] up
    let t := (s.modCtx 0 (fun x => { x with load := [(2, 14), (5, 14)] })).draught 0
    t.bias 0 2 = 0xBC280000#32 ∧ t.bias 0 5 = 0xBC280000#32 ∧ t.bias 0 7 = 0x3B600000#32 := by decide +kernel
/-- "Example: padding, a negative stride and a broadcast". -/
theorem test_descriptor :
    let d : Desc := { noDesc with ety := 2, rank := 3, n0 := 8, n1 := 4, n2 := 3, s0 := 1, s1 := -8, s2 := 0, padLo0 := 2, padHi0 := 1, base := 0x200000040 }
    d.count = 132 ∧ d.at 0 = none ∧ d.at 65 = none ∧ ([2, 9, 35, 128].map (fun l => (d.at l).map d.linOff)) = [some 0, some 7, some (-24), some (-19)] := by
  decide +kernel
/-- "Example: a transposed read from DIAG32": logical row 10, columns 32, 37, 54, 63. -/
theorem test_diag32 :
    let d : Desc := { noDesc with ety := 0, rank := 2, n0 := 64, n1 := 64, s0 := 1024, s1 := 2048, layout := 2, trans := true }
    d.injective = true ∧ ([32, 37, 54, 63].map (fun j => (d.stored j 10 0 0).map (fun i => (d.byteOff i).1))) =
      [some 0x8A0, some 0x8F5, some 0xA06, some 0xA9F] := by decide +kernel
/-- "Example: the injectivity test on three destinations". -/
theorem test_injective : [((64 : Nat), (32 : Nat), (1 : Int), (64 : Int)), (3, 2, 2, 3), (4, 4, 1, -2)].map
    (fun p => ({ noDesc with ety := 4, rank := 2, n0 := p.1, n1 := p.2.1, s0 := p.2.2.1, s1 := p.2.2.2 } : Desc).injective) = [true, false, false] := by
  decide +kernel
/-- "Example: a walk to a page on the other die": the three entries check. -/
theorem test_walk_entries : pteOk 3 0xB000001000010001 5 = true ∧ pteOk 2 0xA000001000011001 5 = true ∧ pteOk 1 0x670000E040600007 5 = true ∧
    pteAddr 0x670000E040600007 = 0xE040600000 ∧ [3, 2, 1].map (fun l => levelIndex l 0x2004060123440) = [0x400, 0x101, 0x100] ∧
    0xE040723440 / 2 ^ 36 = 14 ∧ (0xE040723440 / 256 - 14 * 2 ^ 28) / 64 = 0x101C8 := by decide +kernel
/-- "Example: three codewords of stack 4". -/
theorem test_codewords :
    let err (l : List (Nat × Nat)) := (List.range 18).map (fun k => ((l.find? (fun p => p.1 == k)).map (·.2)).getD 0)
    rsSyn (err [(5, 0x3A)]) = (0x3A, 0x13) ∧ rsDecode none (err [(5, 0x3A)]) = .fix 5 0x3A ∧
    rsSyn (err [(2, 1), (3, 1)]) = (0, 0x0C) ∧ rsDecode none (err [(2, 1), (3, 1)]) = .bad ∧
    rsSyn (err [(7, 0x55), (12, 1)]) = (0x54, 0x18) ∧ rsDecode (some 7) (err [(7, 0x55), (12, 1)]) = .bad ∧
    rsDecode (some 7) (err [(7, 0x55)]) = .erase 0x55 := by decide +kernel
/-- "Example: one element forward and backward". -/
theorem test_func :
    let t : FTab := { xlo := 0xC1000000#32, invW := 0x41800000#32, hold := false, rsvd0 := true, bad := false,
                      v := List.replicate 134 0#32 ++ [0x3F180000#32, 0x3F1C0000#32] }
    let x := (toZA32 (ETy.zf16.val 0x3D40)).1
    let y := (t.eval x).1
    y = 0x3F1A0000#32 ∧ (convTo .zf16 false none (W32.ex y)).1 = 0x3E68 ∧
      (convTo .zg16 false none (W32.ex (mulEx (ETy.zg16.val 0xC080) (W32.ex y)).1)).1 = 0xC01A := by decide +kernel
/-- "Example: a translation fault during an open step": the eight words of its record. -/
theorem test_fault_record :
    let c : Cmd := ⟨0, 2, 77, 5, 0, [BitVec.ofNat 64 (0x10 + 0x0B01 * 2 ^ 32)]⟩
    let ev : Ev := { cls := 2, src := 17, dom := some 5, addr := 0x2004080000100, akind := 1, mkind := 1, mid := 0x38E, acc := 1, cmd := some c, detail := 19 }
    ev.words true true 18 3000000 120456 0 =
      [0x000000120105110E#64, 0x0012004080000100#64, 0x00000000101038E1#64, 0x2DC6C0#64, 0x00000B010001D688#64, 0x42004D#64, 0x13#64, 0#64] := by
  decide +kernel
/-- Contacts of R485, R486 and Table EM-5: PCIe lane 15, SMOKE_N, Chaug port 10 lane 2, and the ground above the ports. -/
theorem test_contacts : Conn.use .j1 95 = some (.pcieRx 15 false) ∧ Conn.use .j1 105 = some (.side .smokeN) ∧
    Conn.use .j3 61 = some (.chaugTx 10 2 true) ∧ Conn.use .j2 433 = some .ground ∧ Conn.use .j1 401 = none := by decide +kernel
/-- R45: (2,800 - 600) W over 250 microseconds. -/
theorem test_pool : State.reset.poolOf 2800 250 = 550000 := by decide +kernel
/-- "Example: emergency throttle beside a fast neighbour": zones 9 and 10 of CD1. -/
theorem test_emergency :
    let s := (up.setFreq 25 22).setFreq 26 44
    let t := s.emergency [25]
    t.zFreq 25 = 20 ∧ t.zFreq 26 = 40 := by decide +kernel
/-- "Example: admission in one frame": B at 96.4 microseconds, with its zone at 1.0 GHz and at 2.0 GHz. -/
theorem test_admission : ∀ p ∈ [(0, 20, true), (96400, 20, false), (96400, 40, true)],
    let s := { (List.range 38).foldl (fun s z => s.setFreq z p.2.1) (head0 (loaded 160000 25000)) with now := p.1 }
    s.fitsTime (.tdma 0) (loaded 160000 25000).cmd = p.2.2 := by decide +kernel

end Sys2Proof.Tests
end

section
/-!
PROOFS. ZA32 sums and products (R67 to R69, R83, R84): what a rounded result and the special results can be as ZA32 words, and from that
the rules over the cases of `addEx` and `mulEx`.
-/
namespace Sys2Proof.Machine

/-! ### Words and their values -/

/-- A NaN read from an IEEE pattern has cause 1, and its magnitude lies above the infinity's (`top + 1`). -/
theorem ieeeVal_nan {f : Fmt} {x i : Nat} (h : ieeeVal f x = .nan i) : i = 1 ∧ f.top + 1 < x % 2 ^ (f.width - 1) := by
  simp only [ieeeVal] at h
  split at h
  case isTrue hTop =>
    split at h
    case isTrue => cases h
    case isFalse hInf =>
      injection h with hi
      exact ⟨hi.symm, by omega⟩
  case isFalse => cases h

/-- What a ZA32 word that is a NaN looks like: one of the four causes of Table NF-3, and low 31 bits above the infinity's (R67). -/
theorem W32.ex_nan {x : W32} {i : Nat} (h : W32.ex x = .nan i) : (1 ≤ i ∧ i ≤ 4) ∧ 0x7F800000 < x.toNat % 2 ^ 31 := by
  unfold W32.ex za32Val at h
  split at h
  case isTrue =>
    injection h with hi
    omega
  case isFalse =>
    obtain ⟨hi, hMag⟩ := ieeeVal_nan h
    exact ⟨by omega, hMag⟩

/-- No word whose low 31 bits go up to the infinity's is a NaN. -/
theorem W32.ex_not_nan {x : W32} (h : x.toNat % 2 ^ 31 ≤ 0x7F800000) : (W32.ex x).isNan = false := by
  cases hEx : W32.ex x with
  | nan i => exact absurd h (Nat.not_le.mpr (W32.ex_nan hEx).2)
  | _ => rfl

/-! ### Canonical results -/

/-- A result as R69 and R67 let an operation deliver it: never -0, and a NaN only with one of the four causes, raising NV. -/
def CanonResult (r : W32 × Flags) : Prop :=
  r.1 ≠ 0x80000000#32 ∧
  ((W32.ex r.1).isNan = true → r.1 ∈ [0x7FC00001#32, 0x7FC00002#32, 0x7FC00003#32, 0x7FC00004#32] ∧ r.2.nv = true)

theorem canonResult_of_not_nan {w : W32} (fl : Flags) (hZero : w ≠ 0x80000000#32) (hNum : (W32.ex w).isNan = false) :
    CanonResult (w, fl) :=
  ⟨hZero, fun hNan => Bool.noConfusion (hNum.symm.trans hNan)⟩

theorem canonResult_inf32 (neg : Bool) (fl : Flags) : CanonResult (inf32 neg, fl) := by
  cases neg <;> exact canonResult_of_not_nan fl (by decide) (W32.ex_not_nan (by decide))

theorem canonResult_nan32 {c : Nat} (h : 1 ≤ c ∧ c ≤ 4) : CanonResult (nan32 c, fNV) := by
  obtain rfl | rfl | rfl | rfl : c = 1 ∨ c = 2 ∨ c = 3 ∨ c = 4 := by omega
  all_goals exact ⟨by decide, fun _ => by decide⟩

/-- The word of a finite pattern: its low 31 bits are the magnitude, and a zero magnitude takes no sign. -/
theorem canonResult_withSign {p : Nat} (neg : Bool) (fl : Flags) (h : p ≤ fmtZA32.top) :
    CanonResult (BitVec.ofNat 32 (withSign fmtZA32 neg p), fl) := by
  have hp : p ≤ 0x7F7FFFFF := h
  have hWord : withSign fmtZA32 neg p < 2 ^ 32 ∧ withSign fmtZA32 neg p ≠ 0x80000000 ∧
      withSign fmtZA32 neg p % 2 ^ 31 = p := by
    simp only [withSign, fmtZA32]
    by_cases hZ : p = 0
    · rw [if_pos hZ]
      omega
    · rw [if_neg hZ]
      cases neg
      · rw [if_neg Bool.false_ne_true]
        omega
      · rw [if_pos rfl]
        omega
  obtain ⟨hLt, hZero, hMag⟩ := hWord
  have hNat : (BitVec.ofNat 32 (withSign fmtZA32 neg p)).toNat = withSign fmtZA32 neg p :=
    Nat.mod_eq_of_lt hLt
  refine canonResult_of_not_nan fl (fun hEq => hZero ?_) (W32.ex_not_nan ?_)
  · exact hNat.symm.trans (congrArg BitVec.toNat hEq)
  · rw [hNat, hMag]
    omega

theorem canonResult_round32 (m e : Int) : CanonResult (round32 m e) := by
  unfold round32
  by_cases hOv : fmtZA32.top < (magRound fmtZA32 none m.natAbs e).1
  · rw [if_pos hOv]
    exact canonResult_inf32 _ _
  · rw [if_neg hOv]
    exact canonResult_withSign _ _ (Nat.le_of_not_lt hOv)

/-- R69: an exact zero rounds to the all-zero word. -/
theorem round32_zero (e : Int) : (round32 0 e).1 = 0#32 := by
  rfl

/-! ### The rules of sums and products, over their operands' values -/

theorem finAdd_comm (m1 e1 m2 e2 : Int) : finAdd m1 e1 m2 e2 = finAdd m2 e2 m1 e1 := by
  simp only [finAdd, Int.min_comm e1 e2, Int.add_comm (alignTo (min e2 e1) m1 e1)]

theorem addEx_comm (x y : Ex) : addEx x y = addEx y x := by
  cases x with
  | nan i =>
    cases y with
    | nan j => simp only [addEx, Nat.min_comm i j]
    | _ => rfl
  | inf a =>
    cases y with
    | inf b => cases a <;> cases b <;> rfl
    | _ => rfl
  | fin m1 e1 =>
    cases y with
    | fin m2 e2 => simp only [addEx, finAdd_comm m1]
    | _ => rfl

theorem mulEx_comm (x y : Ex) : mulEx x y = mulEx y x := by
  cases x with
  | nan i =>
    cases y with
    | nan j => simp only [mulEx, Nat.min_comm i j]
    | _ => rfl
  | inf a =>
    cases y with
    | inf b => cases a <;> cases b <;> rfl
    | _ => rfl
  | fin m1 e1 =>
    cases y with
    | fin m2 e2 => simp only [mulEx, Int.mul_comm m1, Int.add_comm e1]
    | _ => rfl

/-- Tables NF-6 and NF-7 with R68: the sum and the product of a NaN and a value that is none are that NaN. -/
theorem addEx_nan_left {y : Ex} (i : Nat) (h : y.isNan = false) : addEx (.nan i) y = (nan32 i, fNV) := by
  cases y with
  | nan j => cases h
  | _ => rfl

theorem mulEx_nan_left {y : Ex} (i : Nat) (h : y.isNan = false) : mulEx (.nan i) y = (nan32 i, fNV) := by
  cases y with
  | nan j => cases h
  | _ => rfl

section
variable {x y : Ex} (hx : ∀ i, x = .nan i → 1 ≤ i ∧ i ≤ 4) (hy : ∀ j, y = .nan j → 1 ≤ j ∧ j ≤ 4)
include hx hy

/-- Table NF-7, row by row: a NaN operand's cause, the new cause 2 of opposite infinities, an infinity, or a rounded sum. -/
theorem canonResult_addEx : CanonResult (addEx x y) := by
  cases x with
  | nan i =>
    cases y with
    | nan j => exact canonResult_nan32 (by have := hx i rfl; have := hy j rfl; omega)
    | _ => exact canonResult_nan32 (hx i rfl)
  | inf a =>
    cases y with
    | nan j => exact canonResult_nan32 (hy j rfl)
    | inf b =>
      by_cases hab : a = b
      · rw [addEx, if_pos hab]
        exact canonResult_inf32 _ _
      · rw [addEx, if_neg hab]
        exact canonResult_nan32 (by decide)
    | fin m2 e2 => exact canonResult_inf32 _ _
  | fin m1 e1 =>
    cases y with
    | nan j => exact canonResult_nan32 (hy j rfl)
    | inf b => exact canonResult_inf32 _ _
    | fin m2 e2 => exact canonResult_round32 _ _

/-- Table NF-6, row by row: a NaN operand's cause, the new cause 3 of an infinity times zero, an infinity, or a rounded product. -/
theorem canonResult_mulEx : CanonResult (mulEx x y) := by
  have hInfFin (a : Bool) (m : Int) :
      CanonResult (if m = 0 then (nan32 3, fNV) else (inf32 (a != decide (m < 0)), {})) := by
    by_cases hm : m = 0
    · rw [if_pos hm]
      exact canonResult_nan32 (by decide)
    · rw [if_neg hm]
      exact canonResult_inf32 _ _
  cases x with
  | nan i =>
    cases y with
    | nan j => exact canonResult_nan32 (by have := hx i rfl; have := hy j rfl; omega)
    | _ => exact canonResult_nan32 (hx i rfl)
  | inf a =>
    cases y with
    | nan j => exact canonResult_nan32 (hy j rfl)
    | inf b => exact canonResult_inf32 _ _
    | fin m2 e2 => exact hInfFin a m2
  | fin m1 e1 =>
    cases y with
    | nan j => exact canonResult_nan32 (hy j rfl)
    | inf b => exact hInfFin b m1
    | fin m2 e2 => exact canonResult_round32 _ _

end

/-! ### The same of words -/

theorem addZ_comm (a b : W32) : addZ a b = addZ b a := addEx_comm _ _

theorem mulZ_comm (a b : W32) : mulZ a b = mulZ b a := mulEx_comm _ _

theorem canonResult_addZ (a b : W32) : CanonResult (addZ a b) :=
  canonResult_addEx (fun _ h => (W32.ex_nan h).1) (fun _ h => (W32.ex_nan h).1)

theorem canonResult_mulZ (a b : W32) : CanonResult (mulZ a b) :=
  canonResult_mulEx (fun _ h => (W32.ex_nan h).1) (fun _ h => (W32.ex_nan h).1)

section
variable {a b : W32} {m1 e1 m2 e2 : Int} (ha : W32.ex a = .fin m1 e1) (hb : W32.ex b = .fin m2 e2)
include ha hb

/-- R69: a sum whose exact value is zero is the all-zero word. -/
theorem addZ_exact_zero (h : (finAdd m1 e1 m2 e2).1 = 0) : (addZ a b).1 = 0#32 := by
  simp only [addZ, ha, hb, addEx, h, round32_zero]

/-- R69: a product whose exact value is zero is the all-zero word. -/
theorem mulZ_exact_zero (h : m1 * m2 = 0) : (mulZ a b).1 = 0#32 := by
  simp only [mulZ, ha, hb, mulEx, h, round32_zero]

end

theorem resultsAreCanonical : Sys2Proof.Says.ResultsAreCanonical := by
  intro a b
  refine ⟨?canonical, ?zero, ?twoNans, ?oneNan⟩
  case canonical =>
    exact List.forall_mem_cons.mpr ⟨canonResult_addZ a b, List.forall_mem_singleton.mpr (canonResult_mulZ a b)⟩
  case zero => exact fun m1 e1 m2 e2 ha hb => ⟨addZ_exact_zero ha hb, mulZ_exact_zero ha hb⟩
  case twoNans =>
    intro i j ha hb
    simp only [addZ, mulZ, ha, hb, addEx, mulEx, and_self]
  case oneNan =>
    intro i ha hb
    simp only [addZ, mulZ, ha, addEx_nan_left i hb, mulEx_nan_left i hb, and_self]

/-- Settles O17: the rules of Tables NF-6 and NF-7 are symmetric in their operands, and each of their rows gives a canonical result. -/
theorem sumsAndProducts : Obligations.SumsAndProducts := by
  unfold Obligations.SumsAndProducts
  exact ⟨fun a b => ⟨addZ_comm a b, mulZ_comm a b⟩, resultsAreCanonical⟩

end Sys2Proof.Machine
end

section
/-!
PROOFS. SIGNAL (R411): what `signalFor` does to its tally and leaves unchanged, how the row answers a head that is served, and the reserved
bits of its operand word.
-/
namespace Sys2Proof.Machine

/-! ### Signalling for a domain -/

theorem State.signalFor_owned {s : State} {d t : Nat} (a : Nat) (h : s.tallyOk d t = true) : s.signalFor d t a = s.signalTally t a :=
  if_pos h

theorem State.signalFor_unowned {s : State} {d t : Nat} (a : Nat) (h : s.tallyOk d t = false) :
    s.signalFor d t a = s.bump cTallyWriteErr 1 :=
  if_neg (ne_true_of_eq_false h)

/-- Adding 0 modulo 2^48 changes no tally, whether the domain owns it or not. -/
theorem State.signalFor_zero_tally (s : State) (d t y : Nat) : (s.signalFor d t 0).tally y = s.tally y := by
  rw [State.signalFor_tally, ite_self, BitVec.add_zero]

theorem State.signalFor_head (s : State) (d t a q : Nat) : (s.signalFor d t a).head q = s.head q := by
  rw [State.signalFor_frame]; rfl

theorem State.signalFor_flt (s : State) (d t a : Nat) : (s.signalFor d t a).flt = s.flt := by
  rw [State.signalFor_frame]

/-! ### The row at a head that is served -/

/-- What SIGNAL makes of the state, before its completion. -/
def State.signalled (s : State) (h : QEnt) : State :=
  s.signalFor h.cmd.dom (fld (h.cmd.op 0) 16 0) (fld (h.cmd.op 0) 63 32)

theorem exec_signal (q : Nat) (s0 : State) : exec (.signal q) s0 = execSignal q s0 := rfl

section
variable {q : Nat} {s0 : State} {h : QEnt} (hs : (s0.atHead q).Serves q 0x02 h)
include hs

theorem exec_signal_of_running (hRun : ∃ r ∈ (s0.atHead q).runs, r.q = q) : exec (.signal q) s0 = .next (s0.atHead q) := by
  have hAny : (s0.atHead q).runs.any (fun r => r.q == q) = true := by simpa using hRun
  simp only [exec_signal, execSignal, State.headOf_serves hs, hAny, if_true]

theorem exec_signal_of_alone (hRun : ∀ r ∈ (s0.atHead q).runs, r.q ≠ q) :
    exec (.signal q) s0 = .next (((s0.atHead q).signalled h).completeHead q {}) := by
  have hAny : (s0.atHead q).runs.any (fun r => r.q == q) = false := by simpa using hRun
  simp only [exec_signal, execSignal, State.headOf_serves hs, hAny, Bool.false_eq_true, if_false, State.signalled]

/-- The signal leaves the queues and the Fatal flag, so the head that was served is the one that completes. -/
theorem completeHead_signalled_ends :
    Ends (((s0.atHead q).signalled h).popHead q) (((s0.atHead q).signalled h).completeHead q {}) h.cmd {} false := by
  obtain ⟨hHead, -, hServed⟩ := hs
  exact State.completeHead_ends {} ((State.signalFor_head ..).trans hHead)
    ((congrArg (·.fatal) (State.signalFor_flt ..)).trans (State.fatal_of_served hServed))

end

/-! ### Reserved bits at dispatch -/

/-- Check 1 of R398 comes first: whatever the other checks say, its cause is the one reported. -/
theorem State.dispatchCause_of_rsvd (s : State) {c : Cmd} (h : c.rsvdOk = false) : s.dispatchCause c = 1 := by
  simp only [State.dispatchCause, h]
  rfl

theorem Cmd.rsvdOk_signal {c : Cmd} (hOp : c.opcode = 0x02) (h : fld (c.op 0) 31 17 ≠ 0) : c.rsvdOk = false := by
  have hBits : zeroIn (c.op 0) 31 17 = false := beq_false_of_ne h
  simp only [Cmd.rsvdOk, opRsvd, hOp, List.all_cons, hBits, Bool.false_and, Bool.and_false]

/-- Settles O8: the row answers the signalled state with its head completed, or waits for the runs of its queue; the rest is what
`signalFor` does in an owned block, outside of it, and with amount 0. -/
theorem signalAddsInOrder : Obligations.SignalAddsInOrder := by
  unfold Obligations.SignalAddsInOrder
  intro q s0 h s hs x inc
  refine ⟨?reserved, ?alone, exec_signal_of_running hs⟩
  case reserved =>
    obtain ⟨-, hOp, -⟩ := hs
    exact fun hBits => s.dispatchCause_of_rsvd (Cmd.rsvdOk_signal hOp hBits)
  case alone =>
    intro hRun
    refine ⟨s.signalled h, _, exec_signal_of_alone hs hRun, completeHead_signalled_ends hs, ?owned, State.signalFor_unowned inc, ?zero⟩
    case owned =>
      intro hOwn
      have hEq : s.signalled h = s.signalTally x inc := State.signalFor_owned inc hOwn
      rw [hEq]
      exact ⟨rfl, State.tally_signalTally, fun y hy => State.tally_signalTally_ne hy, rfl⟩
    case zero =>
      intro hInc y
      have hEq : s.signalled h = s.signalFor h.cmd.dom x 0 := congrArg (s.signalFor h.cmd.dom x) hInc
      rw [hEq]
      exact s.signalFor_zero_tally _ _ y

end Sys2Proof.Machine
end
